-- ==== Sys2Proof/Word.lean ====
section
/-! DEFINITION. The two word types of CORE: the byte and the 16-bit address (spec/10_state.md R20, R22; spec/00_scope.md, notation).
Everything that assembles, splits or extends a word stands in Decode.lean, where a repair may mend it. -/

namespace Sys2Proof

/-- A byte: 8 bits, an unsigned value 0 to 255. -/
abbrev Byte := BitVec 8

/-- An address or any other 16-bit word: an unsigned value 0 to 65535. -/
abbrev Addr := BitVec 16

end Sys2Proof
end

