-- ==== Sys2Proof/Config.lean ====
section
/-! DEFINITION. What is fixed for the machine (spec/00_scope.md R11, R13, R14): the size of memory, the stack page, the
grounding tiers and the choice of EXEC_SET, and the byte an unlisted address reads as.
There is no free value here: the spec leaves no result of an executed instruction undefined. -/

namespace Sys2Proof

/-- How an opcode row is grounded (spec/30_encoding.md R88): `s` the byte is shown by the source, `c` the operation class is,
`g` the instruction is general knowledge, `d` the byte is decoded and never executed. -/
inductive Tier where
  | s | c | g | d
  deriving DecidableEq, Repr

namespace Config

/-- "a fixed 65536-byte addressable space" (spec/20_memory.md R50). -/
abbrev memorySize : Nat := 65536

/-- The first address of the stack page 0x0100 to 0x01FF (spec/10_state.md R26). -/
abbrev stackPage : Nat := 0x0100

/-- What an address no one has written reads as when the launch fill names nothing else: the constant 0x00 the spec
gives for simulation (spec/70_reset_and_hazards.md R233, D7). DESIGN CHOICE, unsafe: log entry 5. -/
abbrev fillByte : Byte := 0x00

/-- The tiers that make up EXEC_SET (spec/00_scope.md R13, spec/30_encoding.md R88): S, C and G, 137 bytes, the widest set
the spec allows. DESIGN CHOICE, unsafe: log entry 7. -/
def execTiers : List Tier := [.s, .c, .g]

end Config

end Sys2Proof
end

