-- ==== Sys2Proof/Machine/LaunchValues.lean ====
section
/-! DEFINITION. The launch values of `State.reset`. The spec gives no default for any of them: each is an input of a run
(spec/10_state.md R43; spec/70_reset_and_hazards.md R237, D6). The values are those of the launch state the spec's own vectors
call the baseline (spec/95_test_vectors.md, "Baseline launch state" and Part 3); DESIGN CHOICE, unsafe: log entries 2, 3, 4. -/

namespace Sys2Proof.Machine.LaunchValues

/-- `A0`. DESIGN CHOICE, log entry 2. -/
def a : Byte := 0x00
/-- `X0`. DESIGN CHOICE, log entry 2. -/
def x : Byte := 0x00
/-- `Y0`. DESIGN CHOICE, log entry 2. -/
def y : Byte := 0x00
/-- `SP0`. DESIGN CHOICE, log entry 2. -/
def sp : Byte := 0xFF
/-- `N0`. DESIGN CHOICE, log entry 2. -/
def n : Bool := false
/-- `Z0`. DESIGN CHOICE, log entry 2. -/
def z : Bool := false
/-- `C0`. DESIGN CHOICE, log entry 2. -/
def c : Bool := false
/-- `START`. DESIGN CHOICE, log entry 3. -/
def start : Addr := 0x8000
/-- `STEP_BUDGET`. DESIGN CHOICE, log entry 4. -/
def stepBudget : Nat := 100

end Sys2Proof.Machine.LaunchValues
end

