-- ==== Sys2Proof/Syntax.lean ====
section
/-! DEFINITION. The whole instruction set as syntax: the 56 mnemonics, the thirteen addressing-mode tags, the operand forms, and
`Instr`, one constructor per row of spec/opcode_table.json (spec/30_encoding.md R73, R83). Every operand field is the operand
byte or the operand word of the row's format, so each value of a field is an encodable operand (spec/30_encoding.md R74 to R77). -/

namespace Sys2Proof

/-- The 56 mnemonics of the Opcode Table (spec/30_encoding.md R83). -/
inductive Mnemonic where
  | lda | ldx | ldy | sta | stx | sty | tax | tay | txa | tya | tsx | txs
  | adc | sbc | cmp | cpx | cpy | inc | dec | inx | iny | dex | dey | and
  | ora | eor | asl | lsr | rol | ror | bcc | bcs | beq | bne | bmi | bpl
  | jmp | jsr | rts | pha | pla | clc | sec | nop | bit | brk | rti | php
  | plp | bvc | bvs | clv | cld | sed | cli | sei
  deriving DecidableEq, Repr

/-- The closed set of thirteen addressing-mode tags (spec/30_encoding.md R73). -/
inductive Mode where
  | implied | accumulator | immediate | zeroPage | zeroPageX | zeroPageY | indexedIndirect | indirectIndexed
  | absolute | absoluteX | absoluteY | indirect | relative
  deriving DecidableEq, Repr

/-- The size of an instruction with this tag: format F1 is one byte, F2 two, F3 three (spec/30_encoding.md R71, R73). -/
def Mode.size : Mode → Nat
  | .implied => 1 | .accumulator => 1
  | .immediate => 2 | .zeroPage => 2 | .zeroPageX => 2 | .zeroPageY => 2
  | .indexedIndirect => 2 | .indirectIndexed => 2 | .relative => 2
  | .absolute => 3 | .absoluteX => 3 | .absoluteY => 3 | .indirect => 3

/-- The three general registers (spec/10_state.md R20). -/
inductive Reg where
  | a | x | y
  deriving DecidableEq, Repr

/-- An operand in memory: the eight modes the resolver turns into an effective address (spec/20_memory.md R60 to R65), each with
the operand byte or word of the instruction. -/
inductive MemRef where
  | zp   (b : Byte)   -- zero-page
  | zpX  (b : Byte)   -- zero-page-indexed-X
  | zpY  (b : Byte)   -- zero-page-indexed-Y
  | abs  (w : Addr)   -- absolute
  | absX (w : Addr)   -- absolute-indexed-X
  | absY (w : Addr)   -- absolute-indexed-Y
  | indX (b : Byte)   -- indexed-indirect
  | indY (b : Byte)   -- indirect-indexed
  deriving DecidableEq, Repr

/-- The mode tag of a memory operand. -/
def MemRef.mode : MemRef → Mode
  | .zp _ => .zeroPage | .zpX _ => .zeroPageX | .zpY _ => .zeroPageY
  | .abs _ => .absolute | .absX _ => .absoluteX | .absY _ => .absoluteY
  | .indX _ => .indexedIndirect | .indY _ => .indirectIndexed

/-- What a load, an ALU operation or a comparison reads: the immediate byte, or a byte in memory ("one memory or immediate
operand `M`", spec/40_load_store_transfer.md R100). -/
inductive Source where
  | imm (b : Byte)
  | mem (r : MemRef)
  deriving DecidableEq, Repr

def Source.mode : Source → Mode
  | .imm _ => .immediate
  | .mem r => r.mode

/-- What a shift or a rotate reads and writes back: the accumulator, or a byte in memory (spec/42_logic_shift_rotate.md,
"Shifts and rotates"). -/
inductive Place where
  | acc
  | mem (r : MemRef)
  deriving DecidableEq, Repr

def Place.mode : Place → Mode
  | .acc => .accumulator
  | .mem r => r.mode

/-- An instruction's operand as its addressing mode reads the operand bytes (spec/20_memory.md R59 to R67). `jump` is the
absolute mode of JMP and JSR, whose operand is a target and not a data address (R62); `pointer` is the indirect mode. -/
inductive OperandForm where
  | implied
  | accumulator
  | imm     (b : Byte)
  | mem     (r : MemRef)
  | jump    (w : Addr)
  | pointer (w : Addr)
  | rel     (b : Byte)
  deriving DecidableEq, Repr

def OperandForm.mode : OperandForm → Mode
  | .implied => .implied | .accumulator => .accumulator | .imm _ => .immediate | .mem r => r.mode
  | .jump _ => .absolute | .pointer _ => .indirect | .rel _ => .relative

/-- The operand in memory, where there is one. -/
def OperandForm.memRef? : OperandForm → Option MemRef
  | .mem r => some r
  | .implied => none | .accumulator => none | .imm _ => none | .jump _ => none | .pointer _ => none | .rel _ => none

/-- The byte an instruction reads as `M`, where the form gives one. -/
def OperandForm.source? : OperandForm → Option Source
  | .imm b => some (.imm b)
  | .mem r => some (.mem r)
  | .implied => none | .accumulator => none | .jump _ => none | .pointer _ => none | .rel _ => none

/-- The place a shift or a rotate works on, where the form gives one. -/
def OperandForm.place? : OperandForm → Option Place
  | .accumulator => some .acc
  | .mem r => some (.mem r)
  | .implied => none | .imm _ => none | .jump _ => none | .pointer _ => none | .rel _ => none

/-- The instruction set: one constructor per row of spec/opcode_table.json, in the table's order (the order of the opcode
byte). `b` is the single operand byte, `w` the 16-bit operand of byte 2 above byte 1. The comment gives the opcode byte, the
assembler form and the rule. -/
inductive Instr where
  | brk                    -- 00  BRK        R182, decoded only
  | oraIndX (b : Byte)     -- 01  ORA (b,X)  R141
  | oraZp (b : Byte)       -- 05  ORA b      R141
  | aslZp (b : Byte)       -- 06  ASL b      R143
  | php                    -- 08  PHP        R184, decoded only
  | oraImm (b : Byte)      -- 09  ORA #b     R141
  | aslAcc                 -- 0A  ASL A      R143
  | oraAbs (w : Addr)      -- 0D  ORA w      R141
  | aslAbs (w : Addr)      -- 0E  ASL w      R143
  | bpl (b : Byte)         -- 10  BPL b      R156
  | oraIndY (b : Byte)     -- 11  ORA (b),Y  R141
  | oraZpX (b : Byte)      -- 15  ORA b,X    R141
  | aslZpX (b : Byte)      -- 16  ASL b,X    R143
  | clc                    -- 18  CLC        R172
  | oraAbsY (w : Addr)     -- 19  ORA w,Y    R141
  | oraAbsX (w : Addr)     -- 1D  ORA w,X    R141
  | aslAbsX (w : Addr)     -- 1E  ASL w,X    R143
  | jsr (w : Addr)         -- 20  JSR w      R158
  | andIndX (b : Byte)     -- 21  AND (b,X)  R140
  | bitZp (b : Byte)       -- 24  BIT b      R181, decoded only
  | andZp (b : Byte)       -- 25  AND b      R140
  | rolZp (b : Byte)       -- 26  ROL b      R145
  | plp                    -- 28  PLP        R185, decoded only
  | andImm (b : Byte)      -- 29  AND #b     R140
  | rolAcc                 -- 2A  ROL A      R145
  | bitAbs (w : Addr)      -- 2C  BIT w      R181, decoded only
  | andAbs (w : Addr)      -- 2D  AND w      R140
  | rolAbs (w : Addr)      -- 2E  ROL w      R145
  | bmi (b : Byte)         -- 30  BMI b      R155
  | andIndY (b : Byte)     -- 31  AND (b),Y  R140
  | andZpX (b : Byte)      -- 35  AND b,X    R140
  | rolZpX (b : Byte)      -- 36  ROL b,X    R145
  | sec                    -- 38  SEC        R173
  | andAbsY (w : Addr)     -- 39  AND w,Y    R140
  | andAbsX (w : Addr)     -- 3D  AND w,X    R140
  | rolAbsX (w : Addr)     -- 3E  ROL w,X    R145
  | rti                    -- 40  RTI        R183, decoded only
  | eorIndX (b : Byte)     -- 41  EOR (b,X)  R142
  | eorZp (b : Byte)       -- 45  EOR b      R142
  | lsrZp (b : Byte)       -- 46  LSR b      R144
  | pha                    -- 48  PHA        R170
  | eorImm (b : Byte)      -- 49  EOR #b     R142
  | lsrAcc                 -- 4A  LSR A      R144
  | jmpAbs (w : Addr)      -- 4C  JMP w      R157
  | eorAbs (w : Addr)      -- 4D  EOR w      R142
  | lsrAbs (w : Addr)      -- 4E  LSR w      R144
  | bvc (b : Byte)         -- 50  BVC b      R186, decoded only
  | eorIndY (b : Byte)     -- 51  EOR (b),Y  R142
  | eorZpX (b : Byte)      -- 55  EOR b,X    R142
  | lsrZpX (b : Byte)      -- 56  LSR b,X    R144
  | cli                    -- 58  CLI        R191, decoded only
  | eorAbsY (w : Addr)     -- 59  EOR w,Y    R142
  | eorAbsX (w : Addr)     -- 5D  EOR w,X    R142
  | lsrAbsX (w : Addr)     -- 5E  LSR w,X    R144
  | rts                    -- 60  RTS        R159
  | adcIndX (b : Byte)     -- 61  ADC (b,X)  R120
  | adcZp (b : Byte)       -- 65  ADC b      R120
  | rorZp (b : Byte)       -- 66  ROR b      R146
  | pla                    -- 68  PLA        R171
  | adcImm (b : Byte)      -- 69  ADC #b     R120
  | rorAcc                 -- 6A  ROR A      R146
  | jmpInd (w : Addr)      -- 6C  JMP (w)    R192, decoded only
  | adcAbs (w : Addr)      -- 6D  ADC w      R120
  | rorAbs (w : Addr)      -- 6E  ROR w      R146
  | bvs (b : Byte)         -- 70  BVS b      R187, decoded only
  | adcIndY (b : Byte)     -- 71  ADC (b),Y  R120
  | adcZpX (b : Byte)      -- 75  ADC b,X    R120
  | rorZpX (b : Byte)      -- 76  ROR b,X    R146
  | sei                    -- 78  SEI        R193, decoded only
  | adcAbsY (w : Addr)     -- 79  ADC w,Y    R120
  | adcAbsX (w : Addr)     -- 7D  ADC w,X    R120
  | rorAbsX (w : Addr)     -- 7E  ROR w,X    R146
  | staIndX (b : Byte)     -- 81  STA (b,X)  R103
  | styZp (b : Byte)       -- 84  STY b      R105
  | staZp (b : Byte)       -- 85  STA b      R103
  | stxZp (b : Byte)       -- 86  STX b      R104
  | dey                    -- 88  DEY        R130
  | txa                    -- 8A  TXA        R108
  | styAbs (w : Addr)      -- 8C  STY w      R105
  | staAbs (w : Addr)      -- 8D  STA w      R103
  | stxAbs (w : Addr)      -- 8E  STX w      R104
  | bcc (b : Byte)         -- 90  BCC b      R151
  | staIndY (b : Byte)     -- 91  STA (b),Y  R103
  | styZpX (b : Byte)      -- 94  STY b,X    R105
  | staZpX (b : Byte)      -- 95  STA b,X    R103
  | stxZpY (b : Byte)      -- 96  STX b,Y    R104
  | tya                    -- 98  TYA        R109
  | staAbsY (w : Addr)     -- 99  STA w,Y    R103
  | txs                    -- 9A  TXS        R111
  | staAbsX (w : Addr)     -- 9D  STA w,X    R103
  | ldyImm (b : Byte)      -- A0  LDY #b     R102
  | ldaIndX (b : Byte)     -- A1  LDA (b,X)  R100
  | ldxImm (b : Byte)      -- A2  LDX #b     R101
  | ldyZp (b : Byte)       -- A4  LDY b      R102
  | ldaZp (b : Byte)       -- A5  LDA b      R100
  | ldxZp (b : Byte)       -- A6  LDX b      R101
  | tay                    -- A8  TAY        R107
  | ldaImm (b : Byte)      -- A9  LDA #b     R100
  | tax                    -- AA  TAX        R106
  | ldyAbs (w : Addr)      -- AC  LDY w      R102
  | ldaAbs (w : Addr)      -- AD  LDA w      R100
  | ldxAbs (w : Addr)      -- AE  LDX w      R101
  | bcs (b : Byte)         -- B0  BCS b      R152
  | ldaIndY (b : Byte)     -- B1  LDA (b),Y  R100
  | ldyZpX (b : Byte)      -- B4  LDY b,X    R102
  | ldaZpX (b : Byte)      -- B5  LDA b,X    R100
  | ldxZpY (b : Byte)      -- B6  LDX b,Y    R101
  | clv                    -- B8  CLV        R188, decoded only
  | ldaAbsY (w : Addr)     -- B9  LDA w,Y    R100
  | tsx                    -- BA  TSX        R110
  | ldyAbsX (w : Addr)     -- BC  LDY w,X    R102
  | ldaAbsX (w : Addr)     -- BD  LDA w,X    R100
  | ldxAbsY (w : Addr)     -- BE  LDX w,Y    R101
  | cpyImm (b : Byte)      -- C0  CPY #b     R124
  | cmpIndX (b : Byte)     -- C1  CMP (b,X)  R122
  | cpyZp (b : Byte)       -- C4  CPY b      R124
  | cmpZp (b : Byte)       -- C5  CMP b      R122
  | decZp (b : Byte)       -- C6  DEC b      R126
  | iny                    -- C8  INY        R128
  | cmpImm (b : Byte)      -- C9  CMP #b     R122
  | dex                    -- CA  DEX        R129
  | cpyAbs (w : Addr)      -- CC  CPY w      R124
  | cmpAbs (w : Addr)      -- CD  CMP w      R122
  | decAbs (w : Addr)      -- CE  DEC w      R126
  | bne (b : Byte)         -- D0  BNE b      R154
  | cmpIndY (b : Byte)     -- D1  CMP (b),Y  R122
  | cmpZpX (b : Byte)      -- D5  CMP b,X    R122
  | decZpX (b : Byte)      -- D6  DEC b,X    R126
  | cld                    -- D8  CLD        R189, decoded only
  | cmpAbsY (w : Addr)     -- D9  CMP w,Y    R122
  | cmpAbsX (w : Addr)     -- DD  CMP w,X    R122
  | decAbsX (w : Addr)     -- DE  DEC w,X    R126
  | cpxImm (b : Byte)      -- E0  CPX #b     R123
  | sbcIndX (b : Byte)     -- E1  SBC (b,X)  R121
  | cpxZp (b : Byte)       -- E4  CPX b      R123
  | sbcZp (b : Byte)       -- E5  SBC b      R121
  | incZp (b : Byte)       -- E6  INC b      R125
  | inx                    -- E8  INX        R127
  | sbcImm (b : Byte)      -- E9  SBC #b     R121
  | nop                    -- EA  NOP        R174
  | cpxAbs (w : Addr)      -- EC  CPX w      R123
  | sbcAbs (w : Addr)      -- ED  SBC w      R121
  | incAbs (w : Addr)      -- EE  INC w      R125
  | beq (b : Byte)         -- F0  BEQ b      R153
  | sbcIndY (b : Byte)     -- F1  SBC (b),Y  R121
  | sbcZpX (b : Byte)      -- F5  SBC b,X    R121
  | incZpX (b : Byte)      -- F6  INC b,X    R125
  | sed                    -- F8  SED        R190, decoded only
  | sbcAbsY (w : Addr)     -- F9  SBC w,Y    R121
  | sbcAbsX (w : Addr)     -- FD  SBC w,X    R121
  | incAbsX (w : Addr)     -- FE  INC w,X    R125
  deriving DecidableEq, Repr

/-- The mnemonic of an instruction (spec/30_encoding.md R83). -/
def Instr.mnemonic : Instr → Mnemonic
  | .brk => .brk | .oraIndX _ => .ora | .oraZp _ => .ora | .aslZp _ => .asl | .php => .php | .oraImm _ => .ora
  | .aslAcc => .asl | .oraAbs _ => .ora | .aslAbs _ => .asl | .bpl _ => .bpl | .oraIndY _ => .ora
  | .oraZpX _ => .ora | .aslZpX _ => .asl | .clc => .clc | .oraAbsY _ => .ora | .oraAbsX _ => .ora
  | .aslAbsX _ => .asl | .jsr _ => .jsr | .andIndX _ => .and | .bitZp _ => .bit | .andZp _ => .and
  | .rolZp _ => .rol | .plp => .plp | .andImm _ => .and | .rolAcc => .rol | .bitAbs _ => .bit | .andAbs _ => .and
  | .rolAbs _ => .rol | .bmi _ => .bmi | .andIndY _ => .and | .andZpX _ => .and | .rolZpX _ => .rol | .sec => .sec
  | .andAbsY _ => .and | .andAbsX _ => .and | .rolAbsX _ => .rol | .rti => .rti | .eorIndX _ => .eor
  | .eorZp _ => .eor | .lsrZp _ => .lsr | .pha => .pha | .eorImm _ => .eor | .lsrAcc => .lsr | .jmpAbs _ => .jmp
  | .eorAbs _ => .eor | .lsrAbs _ => .lsr | .bvc _ => .bvc | .eorIndY _ => .eor | .eorZpX _ => .eor
  | .lsrZpX _ => .lsr | .cli => .cli | .eorAbsY _ => .eor | .eorAbsX _ => .eor | .lsrAbsX _ => .lsr | .rts => .rts
  | .adcIndX _ => .adc | .adcZp _ => .adc | .rorZp _ => .ror | .pla => .pla | .adcImm _ => .adc | .rorAcc => .ror
  | .jmpInd _ => .jmp | .adcAbs _ => .adc | .rorAbs _ => .ror | .bvs _ => .bvs | .adcIndY _ => .adc
  | .adcZpX _ => .adc | .rorZpX _ => .ror | .sei => .sei | .adcAbsY _ => .adc | .adcAbsX _ => .adc
  | .rorAbsX _ => .ror | .staIndX _ => .sta | .styZp _ => .sty | .staZp _ => .sta | .stxZp _ => .stx | .dey => .dey
  | .txa => .txa | .styAbs _ => .sty | .staAbs _ => .sta | .stxAbs _ => .stx | .bcc _ => .bcc | .staIndY _ => .sta
  | .styZpX _ => .sty | .staZpX _ => .sta | .stxZpY _ => .stx | .tya => .tya | .staAbsY _ => .sta | .txs => .txs
  | .staAbsX _ => .sta | .ldyImm _ => .ldy | .ldaIndX _ => .lda | .ldxImm _ => .ldx | .ldyZp _ => .ldy
  | .ldaZp _ => .lda | .ldxZp _ => .ldx | .tay => .tay | .ldaImm _ => .lda | .tax => .tax | .ldyAbs _ => .ldy
  | .ldaAbs _ => .lda | .ldxAbs _ => .ldx | .bcs _ => .bcs | .ldaIndY _ => .lda | .ldyZpX _ => .ldy
  | .ldaZpX _ => .lda | .ldxZpY _ => .ldx | .clv => .clv | .ldaAbsY _ => .lda | .tsx => .tsx | .ldyAbsX _ => .ldy
  | .ldaAbsX _ => .lda | .ldxAbsY _ => .ldx | .cpyImm _ => .cpy | .cmpIndX _ => .cmp | .cpyZp _ => .cpy
  | .cmpZp _ => .cmp | .decZp _ => .dec | .iny => .iny | .cmpImm _ => .cmp | .dex => .dex | .cpyAbs _ => .cpy
  | .cmpAbs _ => .cmp | .decAbs _ => .dec | .bne _ => .bne | .cmpIndY _ => .cmp | .cmpZpX _ => .cmp
  | .decZpX _ => .dec | .cld => .cld | .cmpAbsY _ => .cmp | .cmpAbsX _ => .cmp | .decAbsX _ => .dec
  | .cpxImm _ => .cpx | .sbcIndX _ => .sbc | .cpxZp _ => .cpx | .sbcZp _ => .sbc | .incZp _ => .inc | .inx => .inx
  | .sbcImm _ => .sbc | .nop => .nop | .cpxAbs _ => .cpx | .sbcAbs _ => .sbc | .incAbs _ => .inc | .beq _ => .beq
  | .sbcIndY _ => .sbc | .sbcZpX _ => .sbc | .incZpX _ => .inc | .sed => .sed | .sbcAbsY _ => .sbc
  | .sbcAbsX _ => .sbc | .incAbsX _ => .inc

/-- The operand of an instruction as its addressing mode reads it (spec/30_encoding.md R83; spec/20_memory.md R59 to R67). -/
def Instr.form : Instr → OperandForm
  | .brk => .implied | .oraIndX b => .mem (.indX b) | .oraZp b => .mem (.zp b) | .aslZp b => .mem (.zp b)
  | .php => .implied | .oraImm b => .imm b | .aslAcc => .accumulator | .oraAbs w => .mem (.abs w)
  | .aslAbs w => .mem (.abs w) | .bpl b => .rel b | .oraIndY b => .mem (.indY b) | .oraZpX b => .mem (.zpX b)
  | .aslZpX b => .mem (.zpX b) | .clc => .implied | .oraAbsY w => .mem (.absY w) | .oraAbsX w => .mem (.absX w)
  | .aslAbsX w => .mem (.absX w) | .jsr w => .jump w | .andIndX b => .mem (.indX b) | .bitZp b => .mem (.zp b)
  | .andZp b => .mem (.zp b) | .rolZp b => .mem (.zp b) | .plp => .implied | .andImm b => .imm b
  | .rolAcc => .accumulator | .bitAbs w => .mem (.abs w) | .andAbs w => .mem (.abs w) | .rolAbs w => .mem (.abs w)
  | .bmi b => .rel b | .andIndY b => .mem (.indY b) | .andZpX b => .mem (.zpX b) | .rolZpX b => .mem (.zpX b)
  | .sec => .implied | .andAbsY w => .mem (.absY w) | .andAbsX w => .mem (.absX w) | .rolAbsX w => .mem (.absX w)
  | .rti => .implied | .eorIndX b => .mem (.indX b) | .eorZp b => .mem (.zp b) | .lsrZp b => .mem (.zp b)
  | .pha => .implied | .eorImm b => .imm b | .lsrAcc => .accumulator | .jmpAbs w => .jump w
  | .eorAbs w => .mem (.abs w) | .lsrAbs w => .mem (.abs w) | .bvc b => .rel b | .eorIndY b => .mem (.indY b)
  | .eorZpX b => .mem (.zpX b) | .lsrZpX b => .mem (.zpX b) | .cli => .implied | .eorAbsY w => .mem (.absY w)
  | .eorAbsX w => .mem (.absX w) | .lsrAbsX w => .mem (.absX w) | .rts => .implied | .adcIndX b => .mem (.indX b)
  | .adcZp b => .mem (.zp b) | .rorZp b => .mem (.zp b) | .pla => .implied | .adcImm b => .imm b
  | .rorAcc => .accumulator | .jmpInd w => .pointer w | .adcAbs w => .mem (.abs w) | .rorAbs w => .mem (.abs w)
  | .bvs b => .rel b | .adcIndY b => .mem (.indY b) | .adcZpX b => .mem (.zpX b) | .rorZpX b => .mem (.zpX b)
  | .sei => .implied | .adcAbsY w => .mem (.absY w) | .adcAbsX w => .mem (.absX w) | .rorAbsX w => .mem (.absX w)
  | .staIndX b => .mem (.indX b) | .styZp b => .mem (.zp b) | .staZp b => .mem (.zp b) | .stxZp b => .mem (.zp b)
  | .dey => .implied | .txa => .implied | .styAbs w => .mem (.abs w) | .staAbs w => .mem (.abs w)
  | .stxAbs w => .mem (.abs w) | .bcc b => .rel b | .staIndY b => .mem (.indY b) | .styZpX b => .mem (.zpX b)
  | .staZpX b => .mem (.zpX b) | .stxZpY b => .mem (.zpY b) | .tya => .implied | .staAbsY w => .mem (.absY w)
  | .txs => .implied | .staAbsX w => .mem (.absX w) | .ldyImm b => .imm b | .ldaIndX b => .mem (.indX b)
  | .ldxImm b => .imm b | .ldyZp b => .mem (.zp b) | .ldaZp b => .mem (.zp b) | .ldxZp b => .mem (.zp b)
  | .tay => .implied | .ldaImm b => .imm b | .tax => .implied | .ldyAbs w => .mem (.abs w)
  | .ldaAbs w => .mem (.abs w) | .ldxAbs w => .mem (.abs w) | .bcs b => .rel b | .ldaIndY b => .mem (.indY b)
  | .ldyZpX b => .mem (.zpX b) | .ldaZpX b => .mem (.zpX b) | .ldxZpY b => .mem (.zpY b) | .clv => .implied
  | .ldaAbsY w => .mem (.absY w) | .tsx => .implied | .ldyAbsX w => .mem (.absX w) | .ldaAbsX w => .mem (.absX w)
  | .ldxAbsY w => .mem (.absY w) | .cpyImm b => .imm b | .cmpIndX b => .mem (.indX b) | .cpyZp b => .mem (.zp b)
  | .cmpZp b => .mem (.zp b) | .decZp b => .mem (.zp b) | .iny => .implied | .cmpImm b => .imm b | .dex => .implied
  | .cpyAbs w => .mem (.abs w) | .cmpAbs w => .mem (.abs w) | .decAbs w => .mem (.abs w) | .bne b => .rel b
  | .cmpIndY b => .mem (.indY b) | .cmpZpX b => .mem (.zpX b) | .decZpX b => .mem (.zpX b) | .cld => .implied
  | .cmpAbsY w => .mem (.absY w) | .cmpAbsX w => .mem (.absX w) | .decAbsX w => .mem (.absX w)
  | .cpxImm b => .imm b | .sbcIndX b => .mem (.indX b) | .cpxZp b => .mem (.zp b) | .sbcZp b => .mem (.zp b)
  | .incZp b => .mem (.zp b) | .inx => .implied | .sbcImm b => .imm b | .nop => .implied
  | .cpxAbs w => .mem (.abs w) | .sbcAbs w => .mem (.abs w) | .incAbs w => .mem (.abs w) | .beq b => .rel b
  | .sbcIndY b => .mem (.indY b) | .sbcZpX b => .mem (.zpX b) | .incZpX b => .mem (.zpX b) | .sed => .implied
  | .sbcAbsY w => .mem (.absY w) | .sbcAbsX w => .mem (.absX w) | .incAbsX w => .mem (.absX w)

/-- The mode tag of an instruction. -/
def Instr.mode (i : Instr) : Mode := i.form.mode

/-- The size of an instruction in bytes (spec/30_encoding.md R70). -/
def Instr.size (i : Instr) : Nat := i.mode.size

/-- A descriptor of the Opcode Table: "(mnemonic, size, addressing-mode)" (spec/30_encoding.md R79, R80). -/
structure Descriptor where
  mnemonic : Mnemonic
  size     : Nat
  mode     : Mode
  deriving DecidableEq, Repr

/-- The descriptor an instruction has. -/
def Instr.descriptor (i : Instr) : Descriptor := { mnemonic := i.mnemonic, size := i.size, mode := i.mode }

end Sys2Proof
end

