-- ==== Sys2Proof/WellFormed.lean ====
section
/-! DEFINITION. When a piece of syntax is well formed. An operand form is well formed for a mnemonic when the by-mnemonic table
of spec/30_encoding.md R83 has a cell for the pair; a descriptor is well formed when its size is its tag's (R80). The fields of
`Instr` can hold encodable operands only, so every instruction is well formed; the checks below are what refuses a pair that
is no row, a descriptor of the wrong size, and a Decoder call outside the address space (R85; spec/60_exceptions.md R221).
The check on a host's launch inputs stands beside `launch` in Machine/Launch.lean. -/

namespace Sys2Proof

/-- The modes each mnemonic has, read from the rows of spec/30_encoding.md R83 by mnemonic (the byte-ordered table of Decode.lean
is written from R84; the two are proved to agree in Laws/Encoding.lean). -/
def Mnemonic.modes : Mnemonic → List Mode
  | .adc => [.immediate, .zeroPage, .zeroPageX, .indexedIndirect, .indirectIndexed, .absolute, .absoluteX, .absoluteY]
  | .and => [.immediate, .zeroPage, .zeroPageX, .indexedIndirect, .indirectIndexed, .absolute, .absoluteX, .absoluteY]
  | .asl => [.accumulator, .zeroPage, .zeroPageX, .absolute, .absoluteX]
  | .bcc => [.relative]
  | .bcs => [.relative]
  | .beq => [.relative]
  | .bit => [.zeroPage, .absolute]
  | .bmi => [.relative]
  | .bne => [.relative]
  | .bpl => [.relative]
  | .brk => [.implied]
  | .bvc => [.relative]
  | .bvs => [.relative]
  | .clc => [.implied]
  | .cld => [.implied]
  | .cli => [.implied]
  | .clv => [.implied]
  | .cmp => [.immediate, .zeroPage, .zeroPageX, .indexedIndirect, .indirectIndexed, .absolute, .absoluteX, .absoluteY]
  | .cpx => [.immediate, .zeroPage, .absolute]
  | .cpy => [.immediate, .zeroPage, .absolute]
  | .dec => [.zeroPage, .zeroPageX, .absolute, .absoluteX]
  | .dex => [.implied]
  | .dey => [.implied]
  | .eor => [.immediate, .zeroPage, .zeroPageX, .indexedIndirect, .indirectIndexed, .absolute, .absoluteX, .absoluteY]
  | .inc => [.zeroPage, .zeroPageX, .absolute, .absoluteX]
  | .inx => [.implied]
  | .iny => [.implied]
  | .jmp => [.absolute, .indirect]
  | .jsr => [.absolute]
  | .lda => [.immediate, .zeroPage, .zeroPageX, .indexedIndirect, .indirectIndexed, .absolute, .absoluteX, .absoluteY]
  | .ldx => [.immediate, .zeroPage, .zeroPageY, .absolute, .absoluteY]
  | .ldy => [.immediate, .zeroPage, .zeroPageX, .absolute, .absoluteX]
  | .lsr => [.accumulator, .zeroPage, .zeroPageX, .absolute, .absoluteX]
  | .nop => [.implied]
  | .ora => [.immediate, .zeroPage, .zeroPageX, .indexedIndirect, .indirectIndexed, .absolute, .absoluteX, .absoluteY]
  | .pha => [.implied]
  | .php => [.implied]
  | .pla => [.implied]
  | .plp => [.implied]
  | .rol => [.accumulator, .zeroPage, .zeroPageX, .absolute, .absoluteX]
  | .ror => [.accumulator, .zeroPage, .zeroPageX, .absolute, .absoluteX]
  | .rti => [.implied]
  | .rts => [.implied]
  | .sbc => [.immediate, .zeroPage, .zeroPageX, .indexedIndirect, .indirectIndexed, .absolute, .absoluteX, .absoluteY]
  | .sec => [.implied]
  | .sed => [.implied]
  | .sei => [.implied]
  | .sta => [.zeroPage, .zeroPageX, .indexedIndirect, .indirectIndexed, .absolute, .absoluteX, .absoluteY]
  | .stx => [.zeroPage, .zeroPageY, .absolute]
  | .sty => [.zeroPage, .zeroPageX, .absolute]
  | .tax => [.implied]
  | .tay => [.implied]
  | .tsx => [.implied]
  | .txa => [.implied]
  | .txs => [.implied]
  | .tya => [.implied]

/-- The form `f` is one the mnemonic `m` has. -/
def wellFormedForm (m : Mnemonic) (f : OperandForm) : Bool := m.modes.contains f.mode

/-- An instruction is well formed when its operand form is one its mnemonic has. -/
def Instr.wf (i : Instr) : Bool := wellFormedForm i.mnemonic i.form

/-- "the size equal to the size rule R73 gives for the tag", for a pair that is a row (spec/30_encoding.md R80). -/
def Descriptor.wf (d : Descriptor) : Bool := d.size == d.mode.size && d.mnemonic.modes.contains d.mode

/-- A Decoder call the spec admits: "`S + len <= 65536`" (spec/30_encoding.md R85; spec/60_exceptions.md R221). -/
def decodeCallWf (buf : List Byte) (start : Nat) : Bool := decide (start + buf.length ≤ Config.memorySize)

end Sys2Proof
end

