-- ==== Sys2Proof/Decode.lean ====
section
/-! DEFINITION. Bytes to instructions and back (spec/30_encoding.md). The Opcode Table as data, one row per defined byte in the
order of the matrix of R84; `lookup`, total on the 256 byte values; `decode`, total on any bytes, which says by name why it
gives no instruction; the Decoder of R85 with its records and placeholders; then `encode`, written from the encoding tables
of the instruction files. The helpers that assemble, split and sign-extend words stand first. -/

namespace Sys2Proof

/-! ### Words -/

/-- `{hi, lo} = hi*256 + lo` (spec/00_scope.md, notation; spec/20_memory.md R53). -/
def word16 (hi lo : Byte) : Addr := BitVec.ofNat 16 (hi.toNat * 256 + lo.toNat)

/-- `w[7:0]`, that is `w mod 256` (spec/30_encoding.md R76). -/
def loByte (w : Addr) : Byte := BitVec.ofNat 8 (w.toNat % 256)

/-- `w[15:8]`, that is `w div 256` (spec/30_encoding.md R76). -/
def hiByte (w : Addr) : Byte := BitVec.ofNat 8 (w.toNat / 256)

/-- `sext_8(b)`: `b` when `b <= 127` and `b - 256` when `b >= 128` (spec/00_scope.md, notation; spec/30_encoding.md R77). -/
def sext8 (b : Byte) : Int := if b.toNat ≤ 127 then (b.toNat : Int) else (b.toNat : Int) - 256

/-- The branch target `T = a + 2 + D` as an integer, `a` the address of the opcode byte (spec/20_memory.md R67). -/
def branchTarget (a : Addr) (d : Byte) : Int := (a.toNat : Int) + 2 + sext8 d

/-! ### The Opcode Table -/

/-- How a row makes its instruction from the operand bytes: format F1, F2 or F3 (spec/30_encoding.md R71). -/
inductive Make where
  | f1 (i : Instr)
  | f2 (mk : Byte → Instr)
  | f3 (mk : Addr → Instr)

/-- The instruction from byte 1 and byte 2; a format that has no such byte ignores it. -/
def Make.build : Make → Byte → Byte → Instr
  | .f1 i, _, _ => i
  | .f2 mk, b1, _ => mk b1
  | .f3 mk, b1, b2 => mk (word16 b2 b1)

/-- The size of the format (spec/30_encoding.md R71). -/
def Make.size : Make → Nat
  | .f1 _ => 1
  | .f2 _ => 2
  | .f3 _ => 3

/-- One row of the Opcode Table (spec/30_encoding.md R83, R84, R88). -/
structure Row where
  byte     : Byte
  mnemonic : Mnemonic
  mode     : Mode
  tier     : Tier
  make     : Make

/-- The size of a row is the size of its tag (spec/30_encoding.md R80). -/
def Row.size (r : Row) : Nat := r.mode.size

def Row.descriptor (r : Row) : Descriptor := { mnemonic := r.mnemonic, size := r.size, mode := r.mode }

/-- The row's byte is in EXEC_SET (spec/30_encoding.md R88). -/
def Row.executed (r : Row) : Bool := Config.execTiers.contains r.tier

/-- The matrix row 0x (spec/30_encoding.md R84). -/
def rows0 : List Row :=
  [ ⟨0x00, .brk, .implied, .d, .f1 .brk⟩,
    ⟨0x01, .ora, .indexedIndirect, .g, .f2 .oraIndX⟩,
    ⟨0x05, .ora, .zeroPage, .g, .f2 .oraZp⟩,
    ⟨0x06, .asl, .zeroPage, .c, .f2 .aslZp⟩,
    ⟨0x08, .php, .implied, .d, .f1 .php⟩,
    ⟨0x09, .ora, .immediate, .g, .f2 .oraImm⟩,
    ⟨0x0A, .asl, .accumulator, .c, .f1 .aslAcc⟩,
    ⟨0x0D, .ora, .absolute, .g, .f3 .oraAbs⟩,
    ⟨0x0E, .asl, .absolute, .c, .f3 .aslAbs⟩]

/-- The matrix row 1x (spec/30_encoding.md R84). -/
def rows1 : List Row :=
  [ ⟨0x10, .bpl, .relative, .c, .f2 .bpl⟩,
    ⟨0x11, .ora, .indirectIndexed, .g, .f2 .oraIndY⟩,
    ⟨0x15, .ora, .zeroPageX, .g, .f2 .oraZpX⟩,
    ⟨0x16, .asl, .zeroPageX, .c, .f2 .aslZpX⟩,
    ⟨0x18, .clc, .implied, .g, .f1 .clc⟩,
    ⟨0x19, .ora, .absoluteY, .g, .f3 .oraAbsY⟩,
    ⟨0x1D, .ora, .absoluteX, .g, .f3 .oraAbsX⟩,
    ⟨0x1E, .asl, .absoluteX, .c, .f3 .aslAbsX⟩]

/-- The matrix row 2x (spec/30_encoding.md R84). -/
def rows2 : List Row :=
  [ ⟨0x20, .jsr, .absolute, .c, .f3 .jsr⟩,
    ⟨0x21, .and, .indexedIndirect, .g, .f2 .andIndX⟩,
    ⟨0x24, .bit, .zeroPage, .d, .f2 .bitZp⟩,
    ⟨0x25, .and, .zeroPage, .g, .f2 .andZp⟩,
    ⟨0x26, .rol, .zeroPage, .c, .f2 .rolZp⟩,
    ⟨0x28, .plp, .implied, .d, .f1 .plp⟩,
    ⟨0x29, .and, .immediate, .g, .f2 .andImm⟩,
    ⟨0x2A, .rol, .accumulator, .c, .f1 .rolAcc⟩,
    ⟨0x2C, .bit, .absolute, .d, .f3 .bitAbs⟩,
    ⟨0x2D, .and, .absolute, .g, .f3 .andAbs⟩,
    ⟨0x2E, .rol, .absolute, .c, .f3 .rolAbs⟩]

/-- The matrix row 3x (spec/30_encoding.md R84). -/
def rows3 : List Row :=
  [ ⟨0x30, .bmi, .relative, .c, .f2 .bmi⟩,
    ⟨0x31, .and, .indirectIndexed, .g, .f2 .andIndY⟩,
    ⟨0x35, .and, .zeroPageX, .g, .f2 .andZpX⟩,
    ⟨0x36, .rol, .zeroPageX, .c, .f2 .rolZpX⟩,
    ⟨0x38, .sec, .implied, .g, .f1 .sec⟩,
    ⟨0x39, .and, .absoluteY, .g, .f3 .andAbsY⟩,
    ⟨0x3D, .and, .absoluteX, .g, .f3 .andAbsX⟩,
    ⟨0x3E, .rol, .absoluteX, .c, .f3 .rolAbsX⟩]

/-- The matrix row 4x (spec/30_encoding.md R84). -/
def rows4 : List Row :=
  [ ⟨0x40, .rti, .implied, .d, .f1 .rti⟩,
    ⟨0x41, .eor, .indexedIndirect, .g, .f2 .eorIndX⟩,
    ⟨0x45, .eor, .zeroPage, .g, .f2 .eorZp⟩,
    ⟨0x46, .lsr, .zeroPage, .c, .f2 .lsrZp⟩,
    ⟨0x48, .pha, .implied, .g, .f1 .pha⟩,
    ⟨0x49, .eor, .immediate, .g, .f2 .eorImm⟩,
    ⟨0x4A, .lsr, .accumulator, .c, .f1 .lsrAcc⟩,
    ⟨0x4C, .jmp, .absolute, .c, .f3 .jmpAbs⟩,
    ⟨0x4D, .eor, .absolute, .g, .f3 .eorAbs⟩,
    ⟨0x4E, .lsr, .absolute, .c, .f3 .lsrAbs⟩]

/-- The matrix row 5x (spec/30_encoding.md R84). -/
def rows5 : List Row :=
  [ ⟨0x50, .bvc, .relative, .d, .f2 .bvc⟩,
    ⟨0x51, .eor, .indirectIndexed, .g, .f2 .eorIndY⟩,
    ⟨0x55, .eor, .zeroPageX, .g, .f2 .eorZpX⟩,
    ⟨0x56, .lsr, .zeroPageX, .c, .f2 .lsrZpX⟩,
    ⟨0x58, .cli, .implied, .d, .f1 .cli⟩,
    ⟨0x59, .eor, .absoluteY, .g, .f3 .eorAbsY⟩,
    ⟨0x5D, .eor, .absoluteX, .g, .f3 .eorAbsX⟩,
    ⟨0x5E, .lsr, .absoluteX, .c, .f3 .lsrAbsX⟩]

/-- The matrix row 6x (spec/30_encoding.md R84). -/
def rows6 : List Row :=
  [ ⟨0x60, .rts, .implied, .s, .f1 .rts⟩,
    ⟨0x61, .adc, .indexedIndirect, .c, .f2 .adcIndX⟩,
    ⟨0x65, .adc, .zeroPage, .c, .f2 .adcZp⟩,
    ⟨0x66, .ror, .zeroPage, .c, .f2 .rorZp⟩,
    ⟨0x68, .pla, .implied, .g, .f1 .pla⟩,
    ⟨0x69, .adc, .immediate, .c, .f2 .adcImm⟩,
    ⟨0x6A, .ror, .accumulator, .c, .f1 .rorAcc⟩,
    ⟨0x6C, .jmp, .indirect, .d, .f3 .jmpInd⟩,
    ⟨0x6D, .adc, .absolute, .c, .f3 .adcAbs⟩,
    ⟨0x6E, .ror, .absolute, .c, .f3 .rorAbs⟩]

/-- The matrix row 7x (spec/30_encoding.md R84). -/
def rows7 : List Row :=
  [ ⟨0x70, .bvs, .relative, .d, .f2 .bvs⟩,
    ⟨0x71, .adc, .indirectIndexed, .c, .f2 .adcIndY⟩,
    ⟨0x75, .adc, .zeroPageX, .c, .f2 .adcZpX⟩,
    ⟨0x76, .ror, .zeroPageX, .c, .f2 .rorZpX⟩,
    ⟨0x78, .sei, .implied, .d, .f1 .sei⟩,
    ⟨0x79, .adc, .absoluteY, .c, .f3 .adcAbsY⟩,
    ⟨0x7D, .adc, .absoluteX, .c, .f3 .adcAbsX⟩,
    ⟨0x7E, .ror, .absoluteX, .c, .f3 .rorAbsX⟩]

/-- The matrix row 8x (spec/30_encoding.md R84). -/
def rows8 : List Row :=
  [ ⟨0x81, .sta, .indexedIndirect, .c, .f2 .staIndX⟩,
    ⟨0x84, .sty, .zeroPage, .g, .f2 .styZp⟩,
    ⟨0x85, .sta, .zeroPage, .s, .f2 .staZp⟩,
    ⟨0x86, .stx, .zeroPage, .g, .f2 .stxZp⟩,
    ⟨0x88, .dey, .implied, .g, .f1 .dey⟩,
    ⟨0x8A, .txa, .implied, .g, .f1 .txa⟩,
    ⟨0x8C, .sty, .absolute, .g, .f3 .styAbs⟩,
    ⟨0x8D, .sta, .absolute, .s, .f3 .staAbs⟩,
    ⟨0x8E, .stx, .absolute, .g, .f3 .stxAbs⟩]

/-- The matrix row 9x (spec/30_encoding.md R84). -/
def rows9 : List Row :=
  [ ⟨0x90, .bcc, .relative, .c, .f2 .bcc⟩,
    ⟨0x91, .sta, .indirectIndexed, .c, .f2 .staIndY⟩,
    ⟨0x94, .sty, .zeroPageX, .g, .f2 .styZpX⟩,
    ⟨0x95, .sta, .zeroPageX, .c, .f2 .staZpX⟩,
    ⟨0x96, .stx, .zeroPageY, .g, .f2 .stxZpY⟩,
    ⟨0x98, .tya, .implied, .g, .f1 .tya⟩,
    ⟨0x99, .sta, .absoluteY, .c, .f3 .staAbsY⟩,
    ⟨0x9A, .txs, .implied, .g, .f1 .txs⟩,
    ⟨0x9D, .sta, .absoluteX, .c, .f3 .staAbsX⟩]

/-- The matrix row Ax (spec/30_encoding.md R84). -/
def rowsA : List Row :=
  [ ⟨0xA0, .ldy, .immediate, .g, .f2 .ldyImm⟩,
    ⟨0xA1, .lda, .indexedIndirect, .c, .f2 .ldaIndX⟩,
    ⟨0xA2, .ldx, .immediate, .g, .f2 .ldxImm⟩,
    ⟨0xA4, .ldy, .zeroPage, .g, .f2 .ldyZp⟩,
    ⟨0xA5, .lda, .zeroPage, .c, .f2 .ldaZp⟩,
    ⟨0xA6, .ldx, .zeroPage, .g, .f2 .ldxZp⟩,
    ⟨0xA8, .tay, .implied, .g, .f1 .tay⟩,
    ⟨0xA9, .lda, .immediate, .s, .f2 .ldaImm⟩,
    ⟨0xAA, .tax, .implied, .g, .f1 .tax⟩,
    ⟨0xAC, .ldy, .absolute, .g, .f3 .ldyAbs⟩,
    ⟨0xAD, .lda, .absolute, .c, .f3 .ldaAbs⟩,
    ⟨0xAE, .ldx, .absolute, .g, .f3 .ldxAbs⟩]

/-- The matrix row Bx (spec/30_encoding.md R84). -/
def rowsB : List Row :=
  [ ⟨0xB0, .bcs, .relative, .c, .f2 .bcs⟩,
    ⟨0xB1, .lda, .indirectIndexed, .c, .f2 .ldaIndY⟩,
    ⟨0xB4, .ldy, .zeroPageX, .g, .f2 .ldyZpX⟩,
    ⟨0xB5, .lda, .zeroPageX, .c, .f2 .ldaZpX⟩,
    ⟨0xB6, .ldx, .zeroPageY, .g, .f2 .ldxZpY⟩,
    ⟨0xB8, .clv, .implied, .d, .f1 .clv⟩,
    ⟨0xB9, .lda, .absoluteY, .c, .f3 .ldaAbsY⟩,
    ⟨0xBA, .tsx, .implied, .g, .f1 .tsx⟩,
    ⟨0xBC, .ldy, .absoluteX, .g, .f3 .ldyAbsX⟩,
    ⟨0xBD, .lda, .absoluteX, .c, .f3 .ldaAbsX⟩,
    ⟨0xBE, .ldx, .absoluteY, .g, .f3 .ldxAbsY⟩]

/-- The matrix row Cx (spec/30_encoding.md R84). -/
def rowsC : List Row :=
  [ ⟨0xC0, .cpy, .immediate, .c, .f2 .cpyImm⟩,
    ⟨0xC1, .cmp, .indexedIndirect, .c, .f2 .cmpIndX⟩,
    ⟨0xC4, .cpy, .zeroPage, .c, .f2 .cpyZp⟩,
    ⟨0xC5, .cmp, .zeroPage, .c, .f2 .cmpZp⟩,
    ⟨0xC6, .dec, .zeroPage, .g, .f2 .decZp⟩,
    ⟨0xC8, .iny, .implied, .g, .f1 .iny⟩,
    ⟨0xC9, .cmp, .immediate, .c, .f2 .cmpImm⟩,
    ⟨0xCA, .dex, .implied, .g, .f1 .dex⟩,
    ⟨0xCC, .cpy, .absolute, .c, .f3 .cpyAbs⟩,
    ⟨0xCD, .cmp, .absolute, .c, .f3 .cmpAbs⟩,
    ⟨0xCE, .dec, .absolute, .g, .f3 .decAbs⟩]

/-- The matrix row Dx (spec/30_encoding.md R84). -/
def rowsD : List Row :=
  [ ⟨0xD0, .bne, .relative, .c, .f2 .bne⟩,
    ⟨0xD1, .cmp, .indirectIndexed, .c, .f2 .cmpIndY⟩,
    ⟨0xD5, .cmp, .zeroPageX, .c, .f2 .cmpZpX⟩,
    ⟨0xD6, .dec, .zeroPageX, .g, .f2 .decZpX⟩,
    ⟨0xD8, .cld, .implied, .d, .f1 .cld⟩,
    ⟨0xD9, .cmp, .absoluteY, .c, .f3 .cmpAbsY⟩,
    ⟨0xDD, .cmp, .absoluteX, .c, .f3 .cmpAbsX⟩,
    ⟨0xDE, .dec, .absoluteX, .g, .f3 .decAbsX⟩]

/-- The matrix row Ex (spec/30_encoding.md R84). -/
def rowsE : List Row :=
  [ ⟨0xE0, .cpx, .immediate, .c, .f2 .cpxImm⟩,
    ⟨0xE1, .sbc, .indexedIndirect, .c, .f2 .sbcIndX⟩,
    ⟨0xE4, .cpx, .zeroPage, .c, .f2 .cpxZp⟩,
    ⟨0xE5, .sbc, .zeroPage, .c, .f2 .sbcZp⟩,
    ⟨0xE6, .inc, .zeroPage, .g, .f2 .incZp⟩,
    ⟨0xE8, .inx, .implied, .g, .f1 .inx⟩,
    ⟨0xE9, .sbc, .immediate, .c, .f2 .sbcImm⟩,
    ⟨0xEA, .nop, .implied, .g, .f1 .nop⟩,
    ⟨0xEC, .cpx, .absolute, .c, .f3 .cpxAbs⟩,
    ⟨0xED, .sbc, .absolute, .c, .f3 .sbcAbs⟩,
    ⟨0xEE, .inc, .absolute, .g, .f3 .incAbs⟩]

/-- The matrix row Fx (spec/30_encoding.md R84). -/
def rowsF : List Row :=
  [ ⟨0xF0, .beq, .relative, .c, .f2 .beq⟩,
    ⟨0xF1, .sbc, .indirectIndexed, .c, .f2 .sbcIndY⟩,
    ⟨0xF5, .sbc, .zeroPageX, .c, .f2 .sbcZpX⟩,
    ⟨0xF6, .inc, .zeroPageX, .g, .f2 .incZpX⟩,
    ⟨0xF8, .sed, .implied, .d, .f1 .sed⟩,
    ⟨0xF9, .sbc, .absoluteY, .c, .f3 .sbcAbsY⟩,
    ⟨0xFD, .sbc, .absoluteX, .c, .f3 .sbcAbsX⟩,
    ⟨0xFE, .inc, .absoluteX, .g, .f3 .incAbsX⟩]

/-- The rows whose opcode byte has the high hexadecimal digit `hi`. -/
def rowsOf : Nat → List Row
  | 0x0 => rows0 | 0x1 => rows1 | 0x2 => rows2 | 0x3 => rows3 | 0x4 => rows4 | 0x5 => rows5 | 0x6 => rows6 | 0x7 => rows7
  | 0x8 => rows8 | 0x9 => rows9 | 0xA => rowsA | 0xB => rowsB | 0xC => rowsC | 0xD => rowsD | 0xE => rowsE | 0xF => rowsF
  | _ => []

/-- All 151 rows in increasing byte order. -/
def allRows : List Row :=
  rows0 ++ rows1 ++ rows2 ++ rows3 ++ rows4 ++ rows5 ++ rows6 ++ rows7 ++
  rows8 ++ rows9 ++ rowsA ++ rowsB ++ rowsC ++ rowsD ++ rowsE ++ rowsF

/-- The row of a byte; `none` is the explicit undefined marker (spec/30_encoding.md R79). The whole byte selects the row (R72). -/
def lookup (op : Byte) : Option Row := (rowsOf (op.toNat / 16)).find? (fun r => r.byte == op)

/-- "given a byte value in [0,255], returns either a descriptor … or an explicit undefined marker" (spec/30_encoding.md R79). -/
def opcodeTable (op : Byte) : Option Descriptor := (lookup op).map Row.descriptor

/-- The byte is in EXEC_SET (spec/30_encoding.md R88). -/
def inExecSet (op : Byte) : Bool :=
  match lookup op with
  | some r => r.executed
  | none => false

/-! ### One instruction from bytes -/

/-- What the front of a byte sequence holds. -/
inductive Decoded where
  | instr (i : Instr) (rest : List Byte)   -- an instruction, and the bytes after it
  | undefined (op : Byte)                  -- the byte has no Opcode Table entry (spec/30_encoding.md R87, R90)
  | truncated (d : Descriptor)             -- the bytes end inside an instruction of this descriptor (spec/30_encoding.md R86)
  | empty                                  -- there is no byte
  deriving DecidableEq, Repr

/-- The instruction at the front of a byte sequence; the length follows from the first byte alone (spec/30_encoding.md R78). -/
def decode : List Byte → Decoded
  | [] => .empty
  | op :: rest =>
    match lookup op with
    | none => .undefined op
    | some r =>
      if rest.length + 1 < r.size then .truncated r.descriptor
      else .instr (r.make.build (rest.getD 0 0) (rest.getD 1 0)) (rest.drop (r.size - 1))

/-- The bytes of an instruction given as bits numbered as spec/opcode_table.json numbers them: bits 7..0 are byte 0, the opcode,
at the lowest address; every bit from `nbits` up is 0; three bytes are the longest instruction. -/
def tableWordBytes (nbits w : Nat) : List Byte :=
  let v := w % 2 ^ nbits
  [BitVec.ofNat 8 v, BitVec.ofNat 8 (v / 256), BitVec.ofNat 8 (v / 65536)]

/-- The instruction the decoder reads from those bytes; `none` where it refuses. -/
def decodeTableWord (nbits w : Nat) : Option Instr :=
  match decode (tableWordBytes nbits w) with
  | .instr i _ => some i
  | .undefined _ => none
  | .truncated _ => none
  | .empty => none

/-! ### The Decoder of a byte buffer -/

/-- The operand field of a record: none for F1, byte 1 for F2, `operand16` for F3 (spec/30_encoding.md R94). -/
inductive RecordOperand where
  | none
  | byte (b : Byte)
  | word (w : Addr)
  deriving DecidableEq, Repr

/-- The target fields of a record (spec/30_encoding.md R93): no target for the mode, a target with `target_valid = 1`, or
`target_valid = 0` and no target value. -/
inductive RecordTarget where
  | absent
  | resolved (t : Addr)
  | invalid
  deriving DecidableEq, Repr

/-- An instruction record (spec/30_encoding.md R94). -/
structure Record where
  address  : Addr
  mnemonic : Mnemonic
  mode     : Mode
  size     : Nat
  raw      : List Byte
  operand  : RecordOperand
  target   : RecordTarget
  deriving DecidableEq, Repr

/-- The mnemonic field of an element of the Decoder's output: a mnemonic, or the tag `UNDEFINED` of a placeholder
(spec/30_encoding.md R87; spec/92_eei_decisions.md D21). -/
inductive MnemonicTag where
  | named (m : Mnemonic)
  | undefined
  deriving DecidableEq, Repr

/-- One element of the Decoder's output. A placeholder stores its address and its one raw byte; its other fields are the same for
every placeholder and are given by the accessors below (spec/30_encoding.md R87, D21). -/
inductive DecodedItem where
  | record (r : Record)
  | placeholder (address : Addr) (raw : Byte)
  deriving DecidableEq, Repr

/-- The address of the element's first byte (spec/30_encoding.md R87, R94). -/
def DecodedItem.address : DecodedItem → Addr
  | .record r => r.address
  | .placeholder a _ => a

/-- The mnemonic, or `UNDEFINED` (spec/30_encoding.md R87, R94). -/
def DecodedItem.mnemonic : DecodedItem → MnemonicTag
  | .record r => .named r.mnemonic
  | .placeholder _ _ => .undefined

/-- The addressing-mode tag; a placeholder's is implied, as D21 of spec/92_eei_decisions.md decides for R85 to R87
(DESIGN CHOICE: R87 itself writes "no mode", log entry 10). -/
def DecodedItem.mode : DecodedItem → Mode
  | .record r => r.mode
  | .placeholder _ _ => .implied

/-- The size in bytes; a placeholder's is 1 (spec/30_encoding.md R87, R94). -/
def DecodedItem.size : DecodedItem → Nat
  | .record r => r.size
  | .placeholder _ _ => 1

/-- The bytes of the buffer that the element stands for (spec/30_encoding.md R87, R94). -/
def DecodedItem.raw : DecodedItem → List Byte
  | .record r => r.raw
  | .placeholder _ b => [b]

/-- The operand; a placeholder has none (spec/30_encoding.md R87, R94). -/
def DecodedItem.operand : DecodedItem → RecordOperand
  | .record r => r.operand
  | .placeholder _ _ => .none

/-- The target; a placeholder has none (spec/30_encoding.md R87, R93). -/
def DecodedItem.target : DecodedItem → RecordTarget
  | .record r => r.target
  | .placeholder _ _ => .absent

/-- `target_valid` by range: the integer `T` where it is a 16-bit address (spec/30_encoding.md R93). -/
def relativeTarget (t : Int) : RecordTarget :=
  if 0 ≤ t ∧ t ≤ 65535 then .resolved (BitVec.ofNat 16 t.toNat) else .invalid

/-- The target of a record by its mode, from its address and raw bytes (spec/30_encoding.md R93). -/
def recordTarget (mode : Mode) (address : Addr) (b1 b2 : Byte) : RecordTarget :=
  match mode with
  | .relative => relativeTarget (branchTarget address b1)
  | .absolute => .resolved (word16 b2 b1) | .absoluteX => .resolved (word16 b2 b1)
  | .absoluteY => .resolved (word16 b2 b1) | .indirect => .resolved (word16 b2 b1)
  | .implied => .absent | .accumulator => .absent | .immediate => .absent | .zeroPage => .absent | .zeroPageX => .absent
  | .zeroPageY => .absent | .indexedIndirect => .absent | .indirectIndexed => .absent

/-- The operand of a record by its size (spec/30_encoding.md R94). -/
def recordOperand (size : Nat) (b1 b2 : Byte) : RecordOperand :=
  if size = 1 then .none else if size = 2 then .byte b1 else .word (word16 b2 b1)

/-- The record for a row whose bytes stand at `address` (spec/30_encoding.md R94). -/
def mkRecord (address : Addr) (r : Row) (raw : List Byte) : Record :=
  { address := address, mnemonic := r.mnemonic, mode := r.mode, size := r.size, raw := raw
    operand := recordOperand r.size (raw.getD 1 0) (raw.getD 2 0)
    target := recordTarget r.mode address (raw.getD 1 0) (raw.getD 2 0) }

/-- The loop of spec/30_encoding.md R85, `fuel` at least the number of bytes left: every turn takes at least one byte. -/
def decodeLoop : Nat → Nat → List Byte → List DecodedItem
  | 0, _, _ => []
  | _ + 1, _, [] => []
  | fuel + 1, address, op :: rest =>
    match lookup op with
    | none => .placeholder (BitVec.ofNat 16 address) op :: decodeLoop fuel (address + 1) rest
    | some r =>
      if rest.length + 1 < r.size then []
      else
        .record (mkRecord (BitVec.ofNat 16 address) r ((op :: rest).take r.size)) ::
          decodeLoop fuel (address + r.size) ((op :: rest).drop r.size)

/-- The Decoder: the records and placeholders of a buffer placed at `start`, or nothing where the call is refused
(spec/30_encoding.md R85; spec/60_exceptions.md R221). -/
def decodeBuffer (buf : List Byte) (start : Nat) : Option (List DecodedItem) :=
  if decodeCallWf buf start then some (decodeLoop buf.length start buf) else none

/-- The optional annotation (spec/93_implementation_defined.md U22): the record's target is one of the annotated addresses,
which are an argument because the source shows only one of them, 0x2001. Log entry 12. -/
def Record.annotated (annotated : List Addr) (r : Record) : Bool :=
  match r.target with
  | .resolved t => annotated.contains t
  | .absent => false
  | .invalid => false

/-! ### The encoder -/

/-- The operand byte of a memory operand, or its low byte then its high byte (spec/30_encoding.md R75, R76). -/
def MemRef.bytes : MemRef → List Byte
  | .zp b => [b] | .zpX b => [b] | .zpY b => [b] | .indX b => [b] | .indY b => [b]
  | .abs w => [loByte w, hiByte w] | .absX w => [loByte w, hiByte w] | .absY w => [loByte w, hiByte w]

/-- The operand bytes of a form, in increasing address order (spec/30_encoding.md R71, R74 to R77). -/
def OperandForm.bytes : OperandForm → List Byte
  | .implied => [] | .accumulator => [] | .imm b => [b] | .rel b => [b] | .mem r => r.bytes
  | .jump w => [loByte w, hiByte w] | .pointer w => [loByte w, hiByte w]

/-- The opcode byte of an instruction, from the encoding tables of spec/40_load_store_transfer.md to
spec/45_decoded_not_executed.md. -/
def Instr.opcode : Instr → Byte
  | .ldaImm _ => 0xA9 | .ldaZp _ => 0xA5 | .ldaZpX _ => 0xB5 | .ldaAbs _ => 0xAD | .ldaAbsX _ => 0xBD
  | .ldaAbsY _ => 0xB9 | .ldaIndX _ => 0xA1 | .ldaIndY _ => 0xB1
  | .ldxImm _ => 0xA2 | .ldxZp _ => 0xA6 | .ldxZpY _ => 0xB6 | .ldxAbs _ => 0xAE | .ldxAbsY _ => 0xBE
  | .ldyImm _ => 0xA0 | .ldyZp _ => 0xA4 | .ldyZpX _ => 0xB4 | .ldyAbs _ => 0xAC | .ldyAbsX _ => 0xBC
  | .staZp _ => 0x85 | .staZpX _ => 0x95 | .staAbs _ => 0x8D | .staAbsX _ => 0x9D | .staAbsY _ => 0x99
  | .staIndX _ => 0x81 | .staIndY _ => 0x91
  | .stxZp _ => 0x86 | .stxZpY _ => 0x96 | .stxAbs _ => 0x8E
  | .styZp _ => 0x84 | .styZpX _ => 0x94 | .styAbs _ => 0x8C
  | .tax => 0xAA
  | .tay => 0xA8
  | .txa => 0x8A
  | .tya => 0x98
  | .tsx => 0xBA
  | .txs => 0x9A
  | .adcImm _ => 0x69 | .adcZp _ => 0x65 | .adcZpX _ => 0x75 | .adcAbs _ => 0x6D | .adcAbsX _ => 0x7D
  | .adcAbsY _ => 0x79 | .adcIndX _ => 0x61 | .adcIndY _ => 0x71
  | .sbcImm _ => 0xE9 | .sbcZp _ => 0xE5 | .sbcZpX _ => 0xF5 | .sbcAbs _ => 0xED | .sbcAbsX _ => 0xFD
  | .sbcAbsY _ => 0xF9 | .sbcIndX _ => 0xE1 | .sbcIndY _ => 0xF1
  | .cmpImm _ => 0xC9 | .cmpZp _ => 0xC5 | .cmpZpX _ => 0xD5 | .cmpAbs _ => 0xCD | .cmpAbsX _ => 0xDD
  | .cmpAbsY _ => 0xD9 | .cmpIndX _ => 0xC1 | .cmpIndY _ => 0xD1
  | .cpxImm _ => 0xE0 | .cpxZp _ => 0xE4 | .cpxAbs _ => 0xEC
  | .cpyImm _ => 0xC0 | .cpyZp _ => 0xC4 | .cpyAbs _ => 0xCC
  | .incZp _ => 0xE6 | .incZpX _ => 0xF6 | .incAbs _ => 0xEE | .incAbsX _ => 0xFE
  | .decZp _ => 0xC6 | .decZpX _ => 0xD6 | .decAbs _ => 0xCE | .decAbsX _ => 0xDE
  | .inx => 0xE8
  | .iny => 0xC8
  | .dex => 0xCA
  | .dey => 0x88
  | .andImm _ => 0x29 | .andZp _ => 0x25 | .andZpX _ => 0x35 | .andAbs _ => 0x2D | .andAbsX _ => 0x3D
  | .andAbsY _ => 0x39 | .andIndX _ => 0x21 | .andIndY _ => 0x31
  | .oraImm _ => 0x09 | .oraZp _ => 0x05 | .oraZpX _ => 0x15 | .oraAbs _ => 0x0D | .oraAbsX _ => 0x1D
  | .oraAbsY _ => 0x19 | .oraIndX _ => 0x01 | .oraIndY _ => 0x11
  | .eorImm _ => 0x49 | .eorZp _ => 0x45 | .eorZpX _ => 0x55 | .eorAbs _ => 0x4D | .eorAbsX _ => 0x5D
  | .eorAbsY _ => 0x59 | .eorIndX _ => 0x41 | .eorIndY _ => 0x51
  | .aslAcc => 0x0A | .aslZp _ => 0x06 | .aslZpX _ => 0x16 | .aslAbs _ => 0x0E | .aslAbsX _ => 0x1E
  | .lsrAcc => 0x4A | .lsrZp _ => 0x46 | .lsrZpX _ => 0x56 | .lsrAbs _ => 0x4E | .lsrAbsX _ => 0x5E
  | .rolAcc => 0x2A | .rolZp _ => 0x26 | .rolZpX _ => 0x36 | .rolAbs _ => 0x2E | .rolAbsX _ => 0x3E
  | .rorAcc => 0x6A | .rorZp _ => 0x66 | .rorZpX _ => 0x76 | .rorAbs _ => 0x6E | .rorAbsX _ => 0x7E
  | .bcc _ => 0x90
  | .bcs _ => 0xB0
  | .beq _ => 0xF0
  | .bne _ => 0xD0
  | .bmi _ => 0x30
  | .bpl _ => 0x10
  | .jmpAbs _ => 0x4C | .jmpInd _ => 0x6C
  | .jsr _ => 0x20
  | .rts => 0x60
  | .pha => 0x48
  | .pla => 0x68
  | .clc => 0x18
  | .sec => 0x38
  | .nop => 0xEA
  | .bitZp _ => 0x24 | .bitAbs _ => 0x2C
  | .brk => 0x00
  | .rti => 0x40
  | .php => 0x08
  | .plp => 0x28
  | .bvc _ => 0x50
  | .bvs _ => 0x70
  | .clv => 0xB8
  | .cld => 0xD8
  | .sed => 0xF8
  | .cli => 0x58
  | .sei => 0x78

/-- The bytes of an instruction, lowest address first. -/
def encode (i : Instr) : List Byte := i.opcode :: i.form.bytes

end Sys2Proof
end

