-- ==== Sys2Proof/Machine/Memory.lean ====
section
/-! DEFINITION. The memory of CORE as plain data (spec/20_memory.md R50): a list of (address, byte) pairs in one canonical form,
addresses rising and no entry equal to what an unlisted address reads as. Every one of the 65536 addresses holds a byte, so a
read never fails; the range check of R52 stands in Ops.lean, before any access. -/

namespace Sys2Proof.Machine

/-- The 65536 bytes: the listed ones, and `Config.fillByte` at every other address. -/
abbrev Memory := List Host.Cell

/-- The byte at an address (spec/20_memory.md R50, R58). -/
def Memory.read : Memory → Nat → Byte
  | [], _ => Config.fillByte
  | (a, v) :: rest, k => if k = a then v else Memory.read rest k

/-- Store one byte (spec/20_memory.md R58), keeping the canonical form. -/
def Memory.write : Memory → Nat → Byte → Memory
  | [], k, v => if v = Config.fillByte then [] else [(k, v)]
  | (a, w) :: rest, k, v =>
    if k < a then
      if v = Config.fillByte then (a, w) :: rest else (k, v) :: (a, w) :: rest
    else if k = a then
      if v = Config.fillByte then rest else (k, v) :: rest
    else (a, w) :: Memory.write rest k v

/-- The canonical form: addresses strictly rising and in the address space, no entry that says what an unlisted address says. -/
abbrev Memory.wf (m : Memory) : Prop :=
  m.Pairwise (fun p q => p.1 < q.1) ∧ ∀ c ∈ m, c.1 < Config.memorySize ∧ c.2 ≠ Config.fillByte

/-- Store bytes at consecutive addresses. -/
def Memory.writeBytes : Memory → Nat → List Byte → Memory
  | m, _, [] => m
  | m, k, v :: vs => Memory.writeBytes (m.write k v) (k + 1) vs

/-- The bytes at up to `n` consecutive addresses from `k`, as many as the address space has (spec/20_memory.md R56). -/
def Memory.window (m : Memory) : Nat → Nat → List Byte
  | 0, _ => []
  | n + 1, k => if k < Config.memorySize then m.read k :: Memory.window m n (k + 1) else []

end Sys2Proof.Machine
end

