-- ==== Sys2Proof/Machine/State.lean ====
section
/-! DEFINITION. The state of CORE (spec/10_state.md): the registers, the flags, memory, the three run-control registers and the
step budget of the run; the one fault and the one refusal; and the state right after reset. -/

namespace Sys2Proof.Machine

/-- The terminal-outcome register (spec/10_state.md R39; spec/60_exceptions.md R201). -/
inductive RunOutcome where
  /-- The run has not ended. -/
  | running
  /-- RTS with no call outstanding (spec/60_exceptions.md R204). -/
  | returned
  /-- The byte fetched as an opcode at `address` is not in EXEC_SET (spec/60_exceptions.md R205). -/
  | unsupportedOpcode (byte : Byte) (address : Addr)
  /-- `STEP_BUDGET` instructions have executed and the run has not ended (spec/60_exceptions.md R206). -/
  | budgetExceeded
  /-- The instruction at `pc` needs the integer `address`, which is outside 0 to 65535 (spec/60_exceptions.md R207). -/
  | addressSpaceViolation (address : Int) (pc : Addr)
  deriving DecidableEq, Repr

/-- The state of the machine. -/
structure State where
  /-- `A`, the accumulator (R20). -/
  a : Byte
  /-- `X`, index register X (R20). -/
  x : Byte
  /-- `Y`, index register Y (R20). -/
  y : Byte
  /-- `SP`, the stack pointer into page 0x0100 to 0x01FF (R26). -/
  sp : Byte
  /-- `PC`, the address of the current instruction's opcode byte (R22, R23). -/
  pc : Addr
  /-- `N`, Negative (R30). -/
  n : Bool
  /-- `Z`, Zero (R30). -/
  z : Bool
  /-- `C`, Carry (R30); set means no borrow (R33). -/
  c : Bool
  /-- The 65536 bytes of memory, code and data (R41). -/
  mem : Memory
  /-- `steps`, the instructions committed in this run (R37). -/
  steps : Nat
  /-- `depth`, the calls of this run not yet returned from (R38). -/
  depth : Nat
  /-- `outcome` (R39). -/
  outcome : RunOutcome
  /-- `STEP_BUDGET`, an input fixed for the whole run (spec/70_reset_and_hazards.md R230). -/
  stepBudget : Nat
  deriving DecidableEq, Repr

/-- Why a step can stop the model. -/
inductive Fault where
  /-- Raised by `step` alone, in a state whose run has ended: "Once `outcome != Running` the Executor has no further step"
  (spec/60_exceptions.md R212; spec/93_implementation_defined.md U26 `stuck`). Safe: the spec defines no next state. -/
  | runEnded
  deriving DecidableEq, Repr

/-- Why an instruction can have no meaning. -/
inductive Refusal where
  /-- Raised by an arm of `exec` for an instruction that has no meaning yet; no arm does. Safe: the model stops. -/
  | notModelled (mnemonic : String)
  deriving DecidableEq, Repr

/-- A step of the machine. -/
abbrev Result := Host.Outcome State Fault Refusal

/-- The machine right after reset: a launch (spec/70_reset_and_hazards.md R237) with the values of LaunchValues.lean (log entries
2, 3, 4), nothing listed in memory (log entry 5), and the hidden state as the hardware resets it: `steps = 0`, `depth = 0`,
`outcome = Running` (spec/70_reset_and_hazards.md R238). -/
def State.reset : State :=
  { a := LaunchValues.a, x := LaunchValues.x, y := LaunchValues.y, sp := LaunchValues.sp, pc := LaunchValues.start
    n := LaunchValues.n, z := LaunchValues.z, c := LaunchValues.c, mem := []
    steps := 0, depth := 0, outcome := .running, stepBudget := LaunchValues.stepBudget }

end Sys2Proof.Machine
end

