-- ==== Sys2Proof/Machine/Ops.lean ====
section
/-! DEFINITION. The named operations over registers and memory that every meaning is built from: registers, byte access, the
stack, the address-space check, committing a step, and raising a terminal outcome, which is all CORE has for an exception
(spec/60_exceptions.md R211). There is no return from an outcome (R212), so no operation clears one. -/

namespace Sys2Proof.Machine

/-! ### Terminal outcomes -/

/-- The state after an outcome is raised: `outcome` is set and nothing else of the step is committed; only `Returned` counts its
RTS as an executed instruction (spec/60_exceptions.md R203). -/
def State.raised (s : State) (o : RunOutcome) : State :=
  { s with outcome := o, steps := if o = .returned then s.steps + 1 else s.steps }

/-- "`raise` is precise" (spec/60_exceptions.md R203): `s` is the state before the step. -/
def raise (o : RunOutcome) (s : State) : Result := .next (s.raised o)

/-- Commit a step: every effect at once, and one more executed instruction (spec/60_exceptions.md R202, step 8). -/
def commit (s : State) : Result := .next { s with steps := s.steps + 1 }

/-! ### Addresses -/

/-- Continue with an integer as an address or a new PC, or raise `AddressSpaceViolation(addr, PC)` where it is outside 0 to
65535; nothing wraps (spec/20_memory.md R52; spec/60_exceptions.md R207). `s` is the state before the step. -/
def withAddress (addr : Int) (s : State) (k : Addr → Result) : Result :=
  if 0 ≤ addr ∧ addr ≤ 65535 then k (BitVec.ofNat 16 addr.toNat)
  else raise (.addressSpaceViolation addr s.pc) s

/-- The first operand byte of an instruction of this size that lies beyond 0xFFFF, if one does: `PC + 1`, then `PC + 2`
(spec/20_memory.md R56; spec/60_exceptions.md R208). -/
def missingOperand (size : Nat) (s : State) : Option Nat :=
  if 2 ≤ size ∧ 65535 < s.pc.toNat + 1 then some (s.pc.toNat + 1)
  else if 3 ≤ size ∧ 65535 < s.pc.toNat + 2 then some (s.pc.toNat + 2)
  else none

/-- Continue where every operand byte of an instruction of this size is in the address space (spec/60_exceptions.md R207 (a)). -/
def withOperandBytes (size : Nat) (s : State) (k : Result) : Result :=
  match missingOperand size s with
  | some addr => raise (.addressSpaceViolation addr s.pc) s
  | none => k

/-- Advance past an instruction of this size and commit `s'`, which holds its other effects; `PC` does not wrap
(spec/10_state.md R24). `s` is the state before the step. -/
def finish (size : Nat) (s s' : State) : Result :=
  withAddress ((s.pc.toNat : Int) + size) s fun pc => commit { s' with pc := pc }

/-! ### Registers and bytes -/

/-- A general register's value. -/
def State.getReg (s : State) : Reg → Byte
  | .a => s.a
  | .x => s.x
  | .y => s.y

/-- Write a general register; none is hard-wired (spec/10_state.md R20). -/
def State.setReg (s : State) (r : Reg) (v : Byte) : State :=
  match r with
  | .a => { s with a := v }
  | .x => { s with x := v }
  | .y => { s with y := v }

/-- `MemRead` at an address in range (spec/20_memory.md R55, R58). -/
def State.byteAt (s : State) (a : Addr) : Byte := s.mem.read a.toNat

/-- `MemWrite` at an address in range (spec/20_memory.md R55, R58). -/
def State.store (s : State) (a : Addr) (v : Byte) : State := { s with mem := s.mem.write a.toNat v }

/-! ### The stack -/

/-- The stack location a stack pointer names: `0x0100 + SP`, always in the stack page (spec/10_state.md R26). -/
def stackAddr (sp : Byte) : Addr := BitVec.ofNat 16 (Config.stackPage + sp.toNat)

/-- `Push(v)`: store at `0x0100 + SP`, then decrement `SP` modulo 256 (spec/10_state.md R27, R29). -/
def State.push (s : State) (v : Byte) : State :=
  let t := s.store (stackAddr s.sp) v
  { t with sp := s.sp - 1 }

/-- The byte `Pull()` gives: the one the incremented `SP` names (spec/10_state.md R28). -/
def State.pulled (s : State) : Byte := s.byteAt (stackAddr (s.sp + 1))

/-- The state after `Pull()`: `SP` incremented modulo 256 (spec/10_state.md R28, R29). -/
def State.pull (s : State) : State := { s with sp := s.sp + 1 }

end Sys2Proof.Machine
end

