-- ==== Sys2Proof/Machine/Flags.lean ====
section
/-! DEFINITION. The flag computations (spec/10_state.md R32, R33; spec/41_arithmetic_compare.md; spec/42_logic_shift_rotate.md).
Each arithmetic result is computed exactly on integers and narrowed at the end; a set carry means no borrow everywhere (R33). -/

namespace Sys2Proof.Machine

/-- Bit `k` of a byte. -/
def bit (v : Byte) (k : Nat) : Bool := v.toNat / 2 ^ k % 2 == 1

/-- `SetNZ(v)` (spec/10_state.md R32). -/
def State.setNZ (s : State) (v : Byte) : State := { s with n := bit v 7, z := decide (v = 0) }

/-- Write the carry flag. -/
def State.setC (s : State) (c : Bool) : State := { s with c := c }

/-- `A + M + C` and its carry out (spec/41_arithmetic_compare.md R120). -/
def addWithCarry (a m : Byte) (c : Bool) : Byte × Bool :=
  let t : Nat := a.toNat + m.toNat + c.toNat
  (BitVec.ofNat 8 (t % 256), decide (255 < t))

/-- `A - M - (1 - C)` and "no borrow" (spec/41_arithmetic_compare.md R121). -/
def subWithBorrow (a m : Byte) (c : Bool) : Byte × Bool :=
  let t : Int := (a.toNat : Int) - m.toNat - (1 - c.toNat)
  (BitVec.ofNat 8 (t % 256).toNat, decide (0 ≤ t))

/-- The difference a comparison takes its flags from, and "no borrow": the carry is no input
(spec/41_arithmetic_compare.md R122). -/
def difference (r m : Byte) : Byte × Bool :=
  let t : Int := (r.toNat : Int) - m.toNat
  (BitVec.ofNat 8 (t % 256).toNat, decide (m.toNat ≤ r.toNat))

/-- ASL: the result and the bit shifted out, bit 7 (spec/42_logic_shift_rotate.md R143). The old carry is not used. -/
def shiftLeft (v : Byte) (_ : Bool) : Byte × Bool := (BitVec.ofNat 8 (v.toNat * 2 % 256), bit v 7)

/-- LSR: the result and the bit shifted out, bit 0 (spec/42_logic_shift_rotate.md R144). The old carry is not used. -/
def shiftRight (v : Byte) (_ : Bool) : Byte × Bool := (BitVec.ofNat 8 (v.toNat / 2), bit v 0)

/-- ROL: the old carry enters at bit 0 (spec/42_logic_shift_rotate.md R145). -/
def rotateLeft (v : Byte) (c : Bool) : Byte × Bool := (BitVec.ofNat 8 (v.toNat * 2 % 256 + c.toNat), bit v 7)

/-- ROR: the old carry enters at bit 7 (spec/42_logic_shift_rotate.md R146). -/
def rotateRight (v : Byte) (c : Bool) : Byte × Bool := (BitVec.ofNat 8 (v.toNat / 2 + 128 * c.toNat), bit v 0)

/-- `(v + 1) mod 256` (spec/41_arithmetic_compare.md R125, R127, R128). -/
def increment (v : Byte) : Byte := BitVec.ofNat 8 ((v.toNat + 1) % 256)

/-- `(v - 1) mod 256` (spec/41_arithmetic_compare.md R126, R129, R130). -/
def decrement (v : Byte) : Byte := BitVec.ofNat 8 ((v.toNat + 255) % 256)

/-- The flags as one byte for a host that wants one: `P[7] = N`, `P[1] = Z`, `P[0] = C`, the rest 0 (spec/10_state.md R35).
No instruction reads or writes it. -/
def State.packedFlags (s : State) : Byte := BitVec.ofNat 8 (128 * s.n.toNat + 2 * s.z.toNat + s.c.toNat)

end Sys2Proof.Machine
end

