-- ==== Sys2Proof/Machine/Operands.lean ====
section
/-! DEFINITION. The address-mode resolver (spec/20_memory.md R59 to R67): the effective address of each of the eight memory
modes, as an integer that the address-space check sees before any access, and reading an operand. The resolver writes nothing. -/

namespace Sys2Proof.Machine

/-- `MemRead16zp(p)`: low byte at `p`, high byte at `(p + 1) mod 256`, both in the zero page (spec/20_memory.md R64). -/
def zpPointer (p : Byte) (s : State) : Nat :=
  (s.mem.read (p + 1).toNat).toNat * 256 + (s.mem.read p.toNat).toNat

/-- The effective address. The zero-page sums stay in the zero page (R61, R64); the absolute-indexed and indirect-indexed sums
do not wrap and may exceed 65535 (R63, R65). -/
def effectiveAddress (r : MemRef) (s : State) : Nat :=
  match r with
  | .zp b   => b.toNat                        -- R60
  | .zpX b  => (b.toNat + s.x.toNat) % 256    -- R61
  | .zpY b  => (b.toNat + s.y.toNat) % 256    -- R61
  | .abs w  => w.toNat                        -- R62
  | .absX w => w.toNat + s.x.toNat            -- R63
  | .absY w => w.toNat + s.y.toNat            -- R63
  | .indX b => zpPointer (b + s.x) s          -- R64
  | .indY b => zpPointer b s + s.y.toNat      -- R65

/-- The sizes of instructions by operand (spec/30_encoding.md R73). -/
def memRefSize (r : MemRef) : Nat := r.mode.size
def sourceSize (src : Source) : Nat := src.mode.size
def placeSize (p : Place) : Nat := p.mode.size

/-- Continue with the address of a memory operand, or raise (spec/20_memory.md R52). -/
def withEffectiveAddress (r : MemRef) (s : State) (k : Addr → Result) : Result :=
  withAddress (effectiveAddress r s) s k

/-- Continue with the operand byte `M`: `b1` in immediate mode (spec/20_memory.md R59), else the byte at `EA`. -/
def withOperand (src : Source) (s : State) (k : Byte → Result) : Result :=
  match src with
  | .imm b => k b
  | .mem r => withEffectiveAddress r s fun a => k (s.byteAt a)

end Sys2Proof.Machine
end

