-- ==== Sys2Proof/Machine/Shapes.lean ====
section
/-! DEFINITION. The shapes the instructions share: a load, a store, a move, an operation on the accumulator, a comparison, a
read-modify-write, a branch, and the one answer of a decoded-only byte. In each, `s` is the state before the step: every read
sees it and every raise returns to it (spec/60_exceptions.md R202, R203; spec/20_memory.md R57). The checks come in the order
of spec/60_exceptions.md R208: operand bytes, effective address, new PC. -/

namespace Sys2Proof.Machine

/-- `R <- M; SetNZ(M)` (spec/40_load_store_transfer.md R100 to R102). -/
def loadReg (r : Reg) (src : Source) (s : State) : Result :=
  withOperandBytes (sourceSize src) s <| withOperand src s fun m =>
    finish (sourceSize src) s ((s.setReg r m).setNZ m)

/-- `MemWrite(EA, 1, v)`, no flag written, no read of `EA` (spec/40_load_store_transfer.md R103 to R105). -/
def storeByte (v : Byte) (ref : MemRef) (s : State) : Result :=
  withOperandBytes (memRefSize ref) s <| withEffectiveAddress ref s fun ea =>
    finish (memRefSize ref) s (s.store ea v)

/-- `R <- v; SetNZ(v)` by a 1-byte implied instruction (spec/40_load_store_transfer.md R106 to R110;
spec/41_arithmetic_compare.md R127 to R130). -/
def moveTo (r : Reg) (v : Byte) (s : State) : Result :=
  finish 1 s ((s.setReg r v).setNZ v)

/-- `A, C <- op(A, M, C); SetNZ(new A)` (spec/41_arithmetic_compare.md R120, R121; spec/42_logic_shift_rotate.md R140 to R142). -/
def accumulate (op : Byte → Byte → Bool → Byte × Bool) (src : Source) (s : State) : Result :=
  withOperandBytes (sourceSize src) s <| withOperand src s fun m =>
    let r := op s.a m s.c
    finish (sourceSize src) s (((s.setReg .a r.1).setNZ r.1).setC r.2)

/-- Flags from `R - M`, the difference discarded (spec/41_arithmetic_compare.md R122 to R124). -/
def compareReg (r : Reg) (src : Source) (s : State) : Result :=
  withOperandBytes (sourceSize src) s <| withOperand src s fun m =>
    let d := difference (s.getReg r) m
    finish (sourceSize src) s ((s.setNZ d.1).setC d.2)

/-- Replace the byte at a place by `op` of it and the old carry, one read then one write (spec/20_memory.md R58;
spec/42_logic_shift_rotate.md R143 to R147; spec/41_arithmetic_compare.md R125, R126). -/
def modifyPlace (op : Byte → Bool → Byte × Bool) (p : Place) (s : State) : Result :=
  withOperandBytes (placeSize p) s <|
    match p with
    | .acc =>
      let r := op s.a s.c
      finish (placeSize p) s (((s.setReg .a r.1).setNZ r.1).setC r.2)
    | .mem ref => withEffectiveAddress ref s fun ea =>
      let r := op (s.byteAt ea) s.c
      finish (placeSize p) s (((s.store ea r.1).setNZ r.1).setC r.2)

/-- The common rule of the branches: where `taken`, `PC <- PC + 2 + sext_8(b1)`, an integer that must be in the address space;
else advance (spec/43_branch_jump_call.md R150). No flag, register or memory byte is written. -/
def branch (taken : Bool) (b : Byte) (s : State) : Result :=
  withOperandBytes 2 s <|
    if taken then withAddress (branchTarget s.pc b) s fun t => commit { s with pc := t }
    else finish 2 s s

/-- A byte that is decoded and not executed: `UnsupportedOpcode(byte, PC)`, before any operand byte is read
(spec/45_decoded_not_executed.md R180; spec/60_exceptions.md R205). -/
def unsupported (byte : Byte) (s : State) : Result := raise (.unsupportedOpcode byte s.pc) s

end Sys2Proof.Machine
end

