-- ==== Sys2Proof/Machine/Arithmetic.lean ====
section
/-! DEFINITION. Arithmetic, comparison, increment and decrement (spec/41_arithmetic_compare.md R120 to R131). All arithmetic is on unsigned
bytes modulo 256, binary only, and no overflow flag exists (R131). -/

namespace Sys2Proof.Machine

/-! ### ADC: A <- A + M + C (R120) -/

/-- ADC, immediate, byte 69 (R120). -/
def execAdcImm (b : Byte) (s : State) : Result := accumulate addWithCarry (.imm b) s
/-- ADC, zero-page, byte 65 (R120). -/
def execAdcZp (b : Byte) (s : State) : Result := accumulate addWithCarry (.mem (.zp b)) s
/-- ADC, zero-page-indexed-X, byte 75 (R120). -/
def execAdcZpX (b : Byte) (s : State) : Result := accumulate addWithCarry (.mem (.zpX b)) s
/-- ADC, absolute, byte 6D (R120). -/
def execAdcAbs (w : Addr) (s : State) : Result := accumulate addWithCarry (.mem (.abs w)) s
/-- ADC, absolute-indexed-X, byte 7D (R120). -/
def execAdcAbsX (w : Addr) (s : State) : Result := accumulate addWithCarry (.mem (.absX w)) s
/-- ADC, absolute-indexed-Y, byte 79 (R120). -/
def execAdcAbsY (w : Addr) (s : State) : Result := accumulate addWithCarry (.mem (.absY w)) s
/-- ADC, indexed-indirect, byte 61 (R120). -/
def execAdcIndX (b : Byte) (s : State) : Result := accumulate addWithCarry (.mem (.indX b)) s
/-- ADC, indirect-indexed, byte 71 (R120). -/
def execAdcIndY (b : Byte) (s : State) : Result := accumulate addWithCarry (.mem (.indY b)) s

/-! ### SBC: A <- A - M - (1 - C) (R121) -/

/-- SBC, immediate, byte E9 (R121). -/
def execSbcImm (b : Byte) (s : State) : Result := accumulate subWithBorrow (.imm b) s
/-- SBC, zero-page, byte E5 (R121). -/
def execSbcZp (b : Byte) (s : State) : Result := accumulate subWithBorrow (.mem (.zp b)) s
/-- SBC, zero-page-indexed-X, byte F5 (R121). -/
def execSbcZpX (b : Byte) (s : State) : Result := accumulate subWithBorrow (.mem (.zpX b)) s
/-- SBC, absolute, byte ED (R121). -/
def execSbcAbs (w : Addr) (s : State) : Result := accumulate subWithBorrow (.mem (.abs w)) s
/-- SBC, absolute-indexed-X, byte FD (R121). -/
def execSbcAbsX (w : Addr) (s : State) : Result := accumulate subWithBorrow (.mem (.absX w)) s
/-- SBC, absolute-indexed-Y, byte F9 (R121). -/
def execSbcAbsY (w : Addr) (s : State) : Result := accumulate subWithBorrow (.mem (.absY w)) s
/-- SBC, indexed-indirect, byte E1 (R121). -/
def execSbcIndX (b : Byte) (s : State) : Result := accumulate subWithBorrow (.mem (.indX b)) s
/-- SBC, indirect-indexed, byte F1 (R121). -/
def execSbcIndY (b : Byte) (s : State) : Result := accumulate subWithBorrow (.mem (.indY b)) s

/-! ### CMP: flags of A - M (R122) -/

/-- CMP, immediate, byte C9 (R122). -/
def execCmpImm (b : Byte) (s : State) : Result := compareReg .a (.imm b) s
/-- CMP, zero-page, byte C5 (R122). -/
def execCmpZp (b : Byte) (s : State) : Result := compareReg .a (.mem (.zp b)) s
/-- CMP, zero-page-indexed-X, byte D5 (R122). -/
def execCmpZpX (b : Byte) (s : State) : Result := compareReg .a (.mem (.zpX b)) s
/-- CMP, absolute, byte CD (R122). -/
def execCmpAbs (w : Addr) (s : State) : Result := compareReg .a (.mem (.abs w)) s
/-- CMP, absolute-indexed-X, byte DD (R122). -/
def execCmpAbsX (w : Addr) (s : State) : Result := compareReg .a (.mem (.absX w)) s
/-- CMP, absolute-indexed-Y, byte D9 (R122). -/
def execCmpAbsY (w : Addr) (s : State) : Result := compareReg .a (.mem (.absY w)) s
/-- CMP, indexed-indirect, byte C1 (R122). -/
def execCmpIndX (b : Byte) (s : State) : Result := compareReg .a (.mem (.indX b)) s
/-- CMP, indirect-indexed, byte D1 (R122). -/
def execCmpIndY (b : Byte) (s : State) : Result := compareReg .a (.mem (.indY b)) s

/-! ### CPX: flags of X - M (R123) -/

/-- CPX, immediate, byte E0 (R123). -/
def execCpxImm (b : Byte) (s : State) : Result := compareReg .x (.imm b) s
/-- CPX, zero-page, byte E4 (R123). -/
def execCpxZp (b : Byte) (s : State) : Result := compareReg .x (.mem (.zp b)) s
/-- CPX, absolute, byte EC (R123). -/
def execCpxAbs (w : Addr) (s : State) : Result := compareReg .x (.mem (.abs w)) s

/-! ### CPY: flags of Y - M (R124) -/

/-- CPY, immediate, byte C0 (R124). -/
def execCpyImm (b : Byte) (s : State) : Result := compareReg .y (.imm b) s
/-- CPY, zero-page, byte C4 (R124). -/
def execCpyZp (b : Byte) (s : State) : Result := compareReg .y (.mem (.zp b)) s
/-- CPY, absolute, byte CC (R124). -/
def execCpyAbs (w : Addr) (s : State) : Result := compareReg .y (.mem (.abs w)) s

/-! ### INC: one more, at EA (R125) -/

/-- INC, zero-page, byte E6 (R125). -/
def execIncZp (b : Byte) (s : State) : Result := modifyPlace (fun v c => (increment v, c)) (.mem (.zp b)) s
/-- INC, zero-page-indexed-X, byte F6 (R125). -/
def execIncZpX (b : Byte) (s : State) : Result := modifyPlace (fun v c => (increment v, c)) (.mem (.zpX b)) s
/-- INC, absolute, byte EE (R125). -/
def execIncAbs (w : Addr) (s : State) : Result := modifyPlace (fun v c => (increment v, c)) (.mem (.abs w)) s
/-- INC, absolute-indexed-X, byte FE (R125). -/
def execIncAbsX (w : Addr) (s : State) : Result := modifyPlace (fun v c => (increment v, c)) (.mem (.absX w)) s

/-! ### DEC: one less, at EA (R126) -/

/-- DEC, zero-page, byte C6 (R126). -/
def execDecZp (b : Byte) (s : State) : Result := modifyPlace (fun v c => (decrement v, c)) (.mem (.zp b)) s
/-- DEC, zero-page-indexed-X, byte D6 (R126). -/
def execDecZpX (b : Byte) (s : State) : Result := modifyPlace (fun v c => (decrement v, c)) (.mem (.zpX b)) s
/-- DEC, absolute, byte CE (R126). -/
def execDecAbs (w : Addr) (s : State) : Result := modifyPlace (fun v c => (decrement v, c)) (.mem (.abs w)) s
/-- DEC, absolute-indexed-X, byte DE (R126). -/
def execDecAbsX (w : Addr) (s : State) : Result := modifyPlace (fun v c => (decrement v, c)) (.mem (.absX w)) s

/-- INX: X <- X + 1 (R127). -/
def execInx (s : State) : Result := moveTo .x (increment s.x) s

/-- INY: Y <- Y + 1 (R128). -/
def execIny (s : State) : Result := moveTo .y (increment s.y) s

/-- DEX: X <- X - 1 (R129). -/
def execDex (s : State) : Result := moveTo .x (decrement s.x) s

/-- DEY: Y <- Y - 1 (R130). -/
def execDey (s : State) : Result := moveTo .y (decrement s.y) s

end Sys2Proof.Machine
end

