-- ==== Sys2Proof/Machine/Control.lean ====
section
/-! DEFINITION. Branches, absolute jump, call and return (spec/43_branch_jump_call.md R150 to R160): the only instructions that set `PC` to
something other than `PC + size` (spec/10_state.md R25). -/

namespace Sys2Proof.Machine

/-- BCC: taken where `C == 0` (R151). -/
def execBcc (b : Byte) (s : State) : Result := branch (!s.c) b s

/-- BCS: taken where `C == 1` (R152). -/
def execBcs (b : Byte) (s : State) : Result := branch s.c b s

/-- BEQ: taken where `Z == 1` (R153). -/
def execBeq (b : Byte) (s : State) : Result := branch s.z b s

/-- BNE: taken where `Z == 0` (R154). -/
def execBne (b : Byte) (s : State) : Result := branch (!s.z) b s

/-- BMI: taken where `N == 1` (R155). -/
def execBmi (b : Byte) (s : State) : Result := branch s.n b s

/-- BPL: taken where `N == 0` (R156). -/
def execBpl (b : Byte) (s : State) : Result := branch (!s.n) b s

/-- JMP absolute: `PC <- {b2, b1}` (R157). -/
def execJmpAbs (w : Addr) (s : State) : Result :=
  withOperandBytes 3 s <| commit { s with pc := w }

/-- JSR: push the address of the call's last byte, `PC + 2`, high byte first, jump, and count the call (R158). The operand
bytes are read before any push (spec/20_memory.md R57). -/
def execJsr (w : Addr) (s : State) : Result :=
  withOperandBytes 3 s <|
    let ra : Addr := s.pc + 2
    commit { (s.push (hiByte ra)).push (loByte ra) with pc := w, depth := s.depth + 1 }

/-- RTS: with no call of this run outstanding the run ends with `Returned`, nothing pulled; else pull the low byte, then the
high byte, and resume one past the pulled address, which must be in the address space (R159; spec/60_exceptions.md R204). -/
def execRts (s : State) : Result :=
  if s.depth = 0 then raise .returned s
  else
    withAddress (((word16 s.pull.pulled s.pulled).toNat : Int) + 1) s fun t =>
      commit { s.pull.pull with pc := t, depth := s.depth - 1 }

end Sys2Proof.Machine
end

