-- ==== Sys2Proof/Machine/LoadStore.lean ====
section
/-! DEFINITION. Load, store and register-transfer instructions (spec/40_load_store_transfer.md R100 to R111). -/

namespace Sys2Proof.Machine

/-! ### LDA: A <- M; SetNZ(M) (R100) -/

/-- LDA, immediate, byte A9 (R100). -/
def execLdaImm (b : Byte) (s : State) : Result := loadReg .a (.imm b) s
/-- LDA, zero-page, byte A5 (R100). -/
def execLdaZp (b : Byte) (s : State) : Result := loadReg .a (.mem (.zp b)) s
/-- LDA, zero-page-indexed-X, byte B5 (R100). -/
def execLdaZpX (b : Byte) (s : State) : Result := loadReg .a (.mem (.zpX b)) s
/-- LDA, absolute, byte AD (R100). -/
def execLdaAbs (w : Addr) (s : State) : Result := loadReg .a (.mem (.abs w)) s
/-- LDA, absolute-indexed-X, byte BD (R100). -/
def execLdaAbsX (w : Addr) (s : State) : Result := loadReg .a (.mem (.absX w)) s
/-- LDA, absolute-indexed-Y, byte B9 (R100). -/
def execLdaAbsY (w : Addr) (s : State) : Result := loadReg .a (.mem (.absY w)) s
/-- LDA, indexed-indirect, byte A1 (R100). -/
def execLdaIndX (b : Byte) (s : State) : Result := loadReg .a (.mem (.indX b)) s
/-- LDA, indirect-indexed, byte B1 (R100). -/
def execLdaIndY (b : Byte) (s : State) : Result := loadReg .a (.mem (.indY b)) s

/-! ### LDX: X <- M; SetNZ(M) (R101) -/

/-- LDX, immediate, byte A2 (R101). -/
def execLdxImm (b : Byte) (s : State) : Result := loadReg .x (.imm b) s
/-- LDX, zero-page, byte A6 (R101). -/
def execLdxZp (b : Byte) (s : State) : Result := loadReg .x (.mem (.zp b)) s
/-- LDX, zero-page-indexed-Y, byte B6 (R101). -/
def execLdxZpY (b : Byte) (s : State) : Result := loadReg .x (.mem (.zpY b)) s
/-- LDX, absolute, byte AE (R101). -/
def execLdxAbs (w : Addr) (s : State) : Result := loadReg .x (.mem (.abs w)) s
/-- LDX, absolute-indexed-Y, byte BE (R101). -/
def execLdxAbsY (w : Addr) (s : State) : Result := loadReg .x (.mem (.absY w)) s

/-! ### LDY: Y <- M; SetNZ(M) (R102) -/

/-- LDY, immediate, byte A0 (R102). -/
def execLdyImm (b : Byte) (s : State) : Result := loadReg .y (.imm b) s
/-- LDY, zero-page, byte A4 (R102). -/
def execLdyZp (b : Byte) (s : State) : Result := loadReg .y (.mem (.zp b)) s
/-- LDY, zero-page-indexed-X, byte B4 (R102). -/
def execLdyZpX (b : Byte) (s : State) : Result := loadReg .y (.mem (.zpX b)) s
/-- LDY, absolute, byte AC (R102). -/
def execLdyAbs (w : Addr) (s : State) : Result := loadReg .y (.mem (.abs w)) s
/-- LDY, absolute-indexed-X, byte BC (R102). -/
def execLdyAbsX (w : Addr) (s : State) : Result := loadReg .y (.mem (.absX w)) s

/-! ### STA: MemWrite(EA, 1, A) (R103) -/

/-- STA, zero-page, byte 85 (R103). -/
def execStaZp (b : Byte) (s : State) : Result := storeByte s.a (.zp b) s
/-- STA, zero-page-indexed-X, byte 95 (R103). -/
def execStaZpX (b : Byte) (s : State) : Result := storeByte s.a (.zpX b) s
/-- STA, absolute, byte 8D (R103). -/
def execStaAbs (w : Addr) (s : State) : Result := storeByte s.a (.abs w) s
/-- STA, absolute-indexed-X, byte 9D (R103). -/
def execStaAbsX (w : Addr) (s : State) : Result := storeByte s.a (.absX w) s
/-- STA, absolute-indexed-Y, byte 99 (R103). -/
def execStaAbsY (w : Addr) (s : State) : Result := storeByte s.a (.absY w) s
/-- STA, indexed-indirect, byte 81 (R103). -/
def execStaIndX (b : Byte) (s : State) : Result := storeByte s.a (.indX b) s
/-- STA, indirect-indexed, byte 91 (R103). -/
def execStaIndY (b : Byte) (s : State) : Result := storeByte s.a (.indY b) s

/-! ### STX: MemWrite(EA, 1, X) (R104) -/

/-- STX, zero-page, byte 86 (R104). -/
def execStxZp (b : Byte) (s : State) : Result := storeByte s.x (.zp b) s
/-- STX, zero-page-indexed-Y, byte 96 (R104). -/
def execStxZpY (b : Byte) (s : State) : Result := storeByte s.x (.zpY b) s
/-- STX, absolute, byte 8E (R104). -/
def execStxAbs (w : Addr) (s : State) : Result := storeByte s.x (.abs w) s

/-! ### STY: MemWrite(EA, 1, Y) (R105) -/

/-- STY, zero-page, byte 84 (R105). -/
def execStyZp (b : Byte) (s : State) : Result := storeByte s.y (.zp b) s
/-- STY, zero-page-indexed-X, byte 94 (R105). -/
def execStyZpX (b : Byte) (s : State) : Result := storeByte s.y (.zpX b) s
/-- STY, absolute, byte 8C (R105). -/
def execStyAbs (w : Addr) (s : State) : Result := storeByte s.y (.abs w) s

/-- TAX: X <- A; SetNZ(A) (R106). -/
def execTax (s : State) : Result := moveTo .x s.a s

/-- TAY: Y <- A; SetNZ(A) (R107). -/
def execTay (s : State) : Result := moveTo .y s.a s

/-- TXA: A <- X; SetNZ(X) (R108). -/
def execTxa (s : State) : Result := moveTo .a s.x s

/-- TYA: A <- Y; SetNZ(Y) (R109). -/
def execTya (s : State) : Result := moveTo .a s.y s

/-- TSX: X <- SP; SetNZ(SP) (R110). -/
def execTsx (s : State) : Result := moveTo .x s.sp s

/-- TXS: SP <- X, no flag written, `depth` unchanged (R111). -/
def execTxs (s : State) : Result := finish 1 s { s with sp := s.x }

end Sys2Proof.Machine
end

