-- ==== Sys2Proof/Machine/Logic.lean ====
section
/-! DEFINITION. Logic, shift and rotate instructions (spec/42_logic_shift_rotate.md R140 to R147). -/

namespace Sys2Proof.Machine

/-- AND, bit by bit; the carry is unchanged (R140). -/
def bitAnd (a m : Byte) (c : Bool) : Byte × Bool := (a &&& m, c)

/-- OR, bit by bit; the carry is unchanged (R141). -/
def bitOr (a m : Byte) (c : Bool) : Byte × Bool := (a ||| m, c)

/-- Exclusive OR, bit by bit; the carry is unchanged (R142). -/
def bitXor (a m : Byte) (c : Bool) : Byte × Bool := (a ^^^ m, c)

/-! ### AND: A <- A and M (R140) -/

/-- AND, immediate, byte 29 (R140). -/
def execAndImm (b : Byte) (s : State) : Result := accumulate bitAnd (.imm b) s
/-- AND, zero-page, byte 25 (R140). -/
def execAndZp (b : Byte) (s : State) : Result := accumulate bitAnd (.mem (.zp b)) s
/-- AND, zero-page-indexed-X, byte 35 (R140). -/
def execAndZpX (b : Byte) (s : State) : Result := accumulate bitAnd (.mem (.zpX b)) s
/-- AND, absolute, byte 2D (R140). -/
def execAndAbs (w : Addr) (s : State) : Result := accumulate bitAnd (.mem (.abs w)) s
/-- AND, absolute-indexed-X, byte 3D (R140). -/
def execAndAbsX (w : Addr) (s : State) : Result := accumulate bitAnd (.mem (.absX w)) s
/-- AND, absolute-indexed-Y, byte 39 (R140). -/
def execAndAbsY (w : Addr) (s : State) : Result := accumulate bitAnd (.mem (.absY w)) s
/-- AND, indexed-indirect, byte 21 (R140). -/
def execAndIndX (b : Byte) (s : State) : Result := accumulate bitAnd (.mem (.indX b)) s
/-- AND, indirect-indexed, byte 31 (R140). -/
def execAndIndY (b : Byte) (s : State) : Result := accumulate bitAnd (.mem (.indY b)) s

/-! ### ORA: A <- A or M (R141) -/

/-- ORA, immediate, byte 09 (R141). -/
def execOraImm (b : Byte) (s : State) : Result := accumulate bitOr (.imm b) s
/-- ORA, zero-page, byte 05 (R141). -/
def execOraZp (b : Byte) (s : State) : Result := accumulate bitOr (.mem (.zp b)) s
/-- ORA, zero-page-indexed-X, byte 15 (R141). -/
def execOraZpX (b : Byte) (s : State) : Result := accumulate bitOr (.mem (.zpX b)) s
/-- ORA, absolute, byte 0D (R141). -/
def execOraAbs (w : Addr) (s : State) : Result := accumulate bitOr (.mem (.abs w)) s
/-- ORA, absolute-indexed-X, byte 1D (R141). -/
def execOraAbsX (w : Addr) (s : State) : Result := accumulate bitOr (.mem (.absX w)) s
/-- ORA, absolute-indexed-Y, byte 19 (R141). -/
def execOraAbsY (w : Addr) (s : State) : Result := accumulate bitOr (.mem (.absY w)) s
/-- ORA, indexed-indirect, byte 01 (R141). -/
def execOraIndX (b : Byte) (s : State) : Result := accumulate bitOr (.mem (.indX b)) s
/-- ORA, indirect-indexed, byte 11 (R141). -/
def execOraIndY (b : Byte) (s : State) : Result := accumulate bitOr (.mem (.indY b)) s

/-! ### EOR: A <- A xor M (R142) -/

/-- EOR, immediate, byte 49 (R142). -/
def execEorImm (b : Byte) (s : State) : Result := accumulate bitXor (.imm b) s
/-- EOR, zero-page, byte 45 (R142). -/
def execEorZp (b : Byte) (s : State) : Result := accumulate bitXor (.mem (.zp b)) s
/-- EOR, zero-page-indexed-X, byte 55 (R142). -/
def execEorZpX (b : Byte) (s : State) : Result := accumulate bitXor (.mem (.zpX b)) s
/-- EOR, absolute, byte 4D (R142). -/
def execEorAbs (w : Addr) (s : State) : Result := accumulate bitXor (.mem (.abs w)) s
/-- EOR, absolute-indexed-X, byte 5D (R142). -/
def execEorAbsX (w : Addr) (s : State) : Result := accumulate bitXor (.mem (.absX w)) s
/-- EOR, absolute-indexed-Y, byte 59 (R142). -/
def execEorAbsY (w : Addr) (s : State) : Result := accumulate bitXor (.mem (.absY w)) s
/-- EOR, indexed-indirect, byte 41 (R142). -/
def execEorIndX (b : Byte) (s : State) : Result := accumulate bitXor (.mem (.indX b)) s
/-- EOR, indirect-indexed, byte 51 (R142). -/
def execEorIndY (b : Byte) (s : State) : Result := accumulate bitXor (.mem (.indY b)) s

/-! ### ASL: shift left, bit 7 to C (R143) -/

/-- ASL, accumulator, byte 0A (R143). -/
def execAslAcc (s : State) : Result := modifyPlace shiftLeft .acc s
/-- ASL, zero-page, byte 06 (R143). -/
def execAslZp (b : Byte) (s : State) : Result := modifyPlace shiftLeft (.mem (.zp b)) s
/-- ASL, zero-page-indexed-X, byte 16 (R143). -/
def execAslZpX (b : Byte) (s : State) : Result := modifyPlace shiftLeft (.mem (.zpX b)) s
/-- ASL, absolute, byte 0E (R143). -/
def execAslAbs (w : Addr) (s : State) : Result := modifyPlace shiftLeft (.mem (.abs w)) s
/-- ASL, absolute-indexed-X, byte 1E (R143). -/
def execAslAbsX (w : Addr) (s : State) : Result := modifyPlace shiftLeft (.mem (.absX w)) s

/-! ### LSR: shift right, bit 0 to C (R144) -/

/-- LSR, accumulator, byte 4A (R144). -/
def execLsrAcc (s : State) : Result := modifyPlace shiftRight .acc s
/-- LSR, zero-page, byte 46 (R144). -/
def execLsrZp (b : Byte) (s : State) : Result := modifyPlace shiftRight (.mem (.zp b)) s
/-- LSR, zero-page-indexed-X, byte 56 (R144). -/
def execLsrZpX (b : Byte) (s : State) : Result := modifyPlace shiftRight (.mem (.zpX b)) s
/-- LSR, absolute, byte 4E (R144). -/
def execLsrAbs (w : Addr) (s : State) : Result := modifyPlace shiftRight (.mem (.abs w)) s
/-- LSR, absolute-indexed-X, byte 5E (R144). -/
def execLsrAbsX (w : Addr) (s : State) : Result := modifyPlace shiftRight (.mem (.absX w)) s

/-! ### ROL: rotate left through C (R145) -/

/-- ROL, accumulator, byte 2A (R145). -/
def execRolAcc (s : State) : Result := modifyPlace rotateLeft .acc s
/-- ROL, zero-page, byte 26 (R145). -/
def execRolZp (b : Byte) (s : State) : Result := modifyPlace rotateLeft (.mem (.zp b)) s
/-- ROL, zero-page-indexed-X, byte 36 (R145). -/
def execRolZpX (b : Byte) (s : State) : Result := modifyPlace rotateLeft (.mem (.zpX b)) s
/-- ROL, absolute, byte 2E (R145). -/
def execRolAbs (w : Addr) (s : State) : Result := modifyPlace rotateLeft (.mem (.abs w)) s
/-- ROL, absolute-indexed-X, byte 3E (R145). -/
def execRolAbsX (w : Addr) (s : State) : Result := modifyPlace rotateLeft (.mem (.absX w)) s

/-! ### ROR: rotate right through C (R146) -/

/-- ROR, accumulator, byte 6A (R146). -/
def execRorAcc (s : State) : Result := modifyPlace rotateRight .acc s
/-- ROR, zero-page, byte 66 (R146). -/
def execRorZp (b : Byte) (s : State) : Result := modifyPlace rotateRight (.mem (.zp b)) s
/-- ROR, zero-page-indexed-X, byte 76 (R146). -/
def execRorZpX (b : Byte) (s : State) : Result := modifyPlace rotateRight (.mem (.zpX b)) s
/-- ROR, absolute, byte 6E (R146). -/
def execRorAbs (w : Addr) (s : State) : Result := modifyPlace rotateRight (.mem (.abs w)) s
/-- ROR, absolute-indexed-X, byte 7E (R146). -/
def execRorAbsX (w : Addr) (s : State) : Result := modifyPlace rotateRight (.mem (.absX w)) s

end Sys2Proof.Machine
end

