-- ==== Sys2Proof/Machine/StackFlag.lean ====
section
/-! DEFINITION. Stack, carry-flag and no-operation instructions (spec/44_stack_flag_misc.md R170 to R174). -/

namespace Sys2Proof.Machine

/-- PHA: `Push(A)`, no flag written, `depth` unchanged (R170). -/
def execPha (s : State) : Result := finish 1 s (s.push s.a)

/-- PLA: `A <- Pull(); SetNZ(new A)` (R171). -/
def execPla (s : State) : Result := finish 1 s ((s.pull.setReg .a s.pulled).setNZ s.pulled)

/-- CLC: `C <- 0` (R172). -/
def execClc (s : State) : Result := finish 1 s (s.setC false)

/-- SEC: `C <- 1` (R173). -/
def execSec (s : State) : Result := finish 1 s (s.setC true)

/-- NOP: only the advance (R174). -/
def execNop (s : State) : Result := finish 1 s s

end Sys2Proof.Machine
end

