-- ==== Sys2Proof/Machine/Unsupported.lean ====
section
/-! DEFINITION. The fourteen bytes the Decoder knows and the Executor does not implement (spec/45_decoded_not_executed.md R180 to R193). Executing
one ends the run with `UnsupportedOpcode(byte, PC)`, nothing else committed; none is a no-operation and none is skipped (R180). -/

namespace Sys2Proof.Machine

/-- BIT zero-page, byte 24 (R181). -/
def execBitZp (s : State) : Result := unsupported 0x24 s
/-- BIT absolute, byte 2C (R181). -/
def execBitAbs (s : State) : Result := unsupported 0x2C s

/-- BRK, byte 00 (R182). -/
def execBrk (s : State) : Result := unsupported 0x00 s

/-- RTI, byte 40 (R183). -/
def execRti (s : State) : Result := unsupported 0x40 s

/-- PHP, byte 08 (R184). -/
def execPhp (s : State) : Result := unsupported 0x08 s

/-- PLP, byte 28 (R185). -/
def execPlp (s : State) : Result := unsupported 0x28 s

/-- BVC, byte 50 (R186). -/
def execBvc (s : State) : Result := unsupported 0x50 s

/-- BVS, byte 70 (R187). -/
def execBvs (s : State) : Result := unsupported 0x70 s

/-- CLV, byte B8 (R188). -/
def execClv (s : State) : Result := unsupported 0xB8 s

/-- CLD, byte D8 (R189). -/
def execCld (s : State) : Result := unsupported 0xD8 s

/-- SED, byte F8 (R190). -/
def execSed (s : State) : Result := unsupported 0xF8 s

/-- CLI, byte 58 (R191). -/
def execCli (s : State) : Result := unsupported 0x58 s

/-- SEI, byte 78 (R193). -/
def execSei (s : State) : Result := unsupported 0x78 s

/-- JMP indirect, byte 6C (R192). -/
def execJmpInd (s : State) : Result := unsupported 0x6C s

end Sys2Proof.Machine
end

