-- ==== Sys2Proof/Machine/Dispatch.lean ====
section
/-! DEFINITION. The dispatcher: one arm per constructor of `Instr`, each one direct call of its meaning. -/

namespace Sys2Proof.Machine

/-- What executing an instruction does to a state in which its step has passed the budget check, the opcode fetch and the
EXEC_SET check (spec/60_exceptions.md R202, steps 4 to 8). -/
def exec (i : Instr) (s : State) : Host.Outcome State Fault Refusal :=
  match i with
  -- LDA (R100)
  | .ldaImm b => Sys2Proof.Machine.execLdaImm b s
  | .ldaZp b => Sys2Proof.Machine.execLdaZp b s
  | .ldaZpX b => Sys2Proof.Machine.execLdaZpX b s
  | .ldaAbs w => Sys2Proof.Machine.execLdaAbs w s
  | .ldaAbsX w => Sys2Proof.Machine.execLdaAbsX w s
  | .ldaAbsY w => Sys2Proof.Machine.execLdaAbsY w s
  | .ldaIndX b => Sys2Proof.Machine.execLdaIndX b s
  | .ldaIndY b => Sys2Proof.Machine.execLdaIndY b s
  -- LDX (R101)
  | .ldxImm b => Sys2Proof.Machine.execLdxImm b s
  | .ldxZp b => Sys2Proof.Machine.execLdxZp b s
  | .ldxZpY b => Sys2Proof.Machine.execLdxZpY b s
  | .ldxAbs w => Sys2Proof.Machine.execLdxAbs w s
  | .ldxAbsY w => Sys2Proof.Machine.execLdxAbsY w s
  -- LDY (R102)
  | .ldyImm b => Sys2Proof.Machine.execLdyImm b s
  | .ldyZp b => Sys2Proof.Machine.execLdyZp b s
  | .ldyZpX b => Sys2Proof.Machine.execLdyZpX b s
  | .ldyAbs w => Sys2Proof.Machine.execLdyAbs w s
  | .ldyAbsX w => Sys2Proof.Machine.execLdyAbsX w s
  -- STA (R103)
  | .staZp b => Sys2Proof.Machine.execStaZp b s
  | .staZpX b => Sys2Proof.Machine.execStaZpX b s
  | .staAbs w => Sys2Proof.Machine.execStaAbs w s
  | .staAbsX w => Sys2Proof.Machine.execStaAbsX w s
  | .staAbsY w => Sys2Proof.Machine.execStaAbsY w s
  | .staIndX b => Sys2Proof.Machine.execStaIndX b s
  | .staIndY b => Sys2Proof.Machine.execStaIndY b s
  -- STX (R104)
  | .stxZp b => Sys2Proof.Machine.execStxZp b s
  | .stxZpY b => Sys2Proof.Machine.execStxZpY b s
  | .stxAbs w => Sys2Proof.Machine.execStxAbs w s
  -- STY (R105)
  | .styZp b => Sys2Proof.Machine.execStyZp b s
  | .styZpX b => Sys2Proof.Machine.execStyZpX b s
  | .styAbs w => Sys2Proof.Machine.execStyAbs w s
  -- TAX (R106)
  | .tax => Sys2Proof.Machine.execTax s
  -- TAY (R107)
  | .tay => Sys2Proof.Machine.execTay s
  -- TXA (R108)
  | .txa => Sys2Proof.Machine.execTxa s
  -- TYA (R109)
  | .tya => Sys2Proof.Machine.execTya s
  -- TSX (R110)
  | .tsx => Sys2Proof.Machine.execTsx s
  -- TXS (R111)
  | .txs => Sys2Proof.Machine.execTxs s
  -- ADC (R120)
  | .adcImm b => Sys2Proof.Machine.execAdcImm b s
  | .adcZp b => Sys2Proof.Machine.execAdcZp b s
  | .adcZpX b => Sys2Proof.Machine.execAdcZpX b s
  | .adcAbs w => Sys2Proof.Machine.execAdcAbs w s
  | .adcAbsX w => Sys2Proof.Machine.execAdcAbsX w s
  | .adcAbsY w => Sys2Proof.Machine.execAdcAbsY w s
  | .adcIndX b => Sys2Proof.Machine.execAdcIndX b s
  | .adcIndY b => Sys2Proof.Machine.execAdcIndY b s
  -- SBC (R121)
  | .sbcImm b => Sys2Proof.Machine.execSbcImm b s
  | .sbcZp b => Sys2Proof.Machine.execSbcZp b s
  | .sbcZpX b => Sys2Proof.Machine.execSbcZpX b s
  | .sbcAbs w => Sys2Proof.Machine.execSbcAbs w s
  | .sbcAbsX w => Sys2Proof.Machine.execSbcAbsX w s
  | .sbcAbsY w => Sys2Proof.Machine.execSbcAbsY w s
  | .sbcIndX b => Sys2Proof.Machine.execSbcIndX b s
  | .sbcIndY b => Sys2Proof.Machine.execSbcIndY b s
  -- CMP (R122)
  | .cmpImm b => Sys2Proof.Machine.execCmpImm b s
  | .cmpZp b => Sys2Proof.Machine.execCmpZp b s
  | .cmpZpX b => Sys2Proof.Machine.execCmpZpX b s
  | .cmpAbs w => Sys2Proof.Machine.execCmpAbs w s
  | .cmpAbsX w => Sys2Proof.Machine.execCmpAbsX w s
  | .cmpAbsY w => Sys2Proof.Machine.execCmpAbsY w s
  | .cmpIndX b => Sys2Proof.Machine.execCmpIndX b s
  | .cmpIndY b => Sys2Proof.Machine.execCmpIndY b s
  -- CPX (R123)
  | .cpxImm b => Sys2Proof.Machine.execCpxImm b s
  | .cpxZp b => Sys2Proof.Machine.execCpxZp b s
  | .cpxAbs w => Sys2Proof.Machine.execCpxAbs w s
  -- CPY (R124)
  | .cpyImm b => Sys2Proof.Machine.execCpyImm b s
  | .cpyZp b => Sys2Proof.Machine.execCpyZp b s
  | .cpyAbs w => Sys2Proof.Machine.execCpyAbs w s
  -- INC (R125)
  | .incZp b => Sys2Proof.Machine.execIncZp b s
  | .incZpX b => Sys2Proof.Machine.execIncZpX b s
  | .incAbs w => Sys2Proof.Machine.execIncAbs w s
  | .incAbsX w => Sys2Proof.Machine.execIncAbsX w s
  -- DEC (R126)
  | .decZp b => Sys2Proof.Machine.execDecZp b s
  | .decZpX b => Sys2Proof.Machine.execDecZpX b s
  | .decAbs w => Sys2Proof.Machine.execDecAbs w s
  | .decAbsX w => Sys2Proof.Machine.execDecAbsX w s
  -- INX (R127)
  | .inx => Sys2Proof.Machine.execInx s
  -- INY (R128)
  | .iny => Sys2Proof.Machine.execIny s
  -- DEX (R129)
  | .dex => Sys2Proof.Machine.execDex s
  -- DEY (R130)
  | .dey => Sys2Proof.Machine.execDey s
  -- AND (R140)
  | .andImm b => Sys2Proof.Machine.execAndImm b s
  | .andZp b => Sys2Proof.Machine.execAndZp b s
  | .andZpX b => Sys2Proof.Machine.execAndZpX b s
  | .andAbs w => Sys2Proof.Machine.execAndAbs w s
  | .andAbsX w => Sys2Proof.Machine.execAndAbsX w s
  | .andAbsY w => Sys2Proof.Machine.execAndAbsY w s
  | .andIndX b => Sys2Proof.Machine.execAndIndX b s
  | .andIndY b => Sys2Proof.Machine.execAndIndY b s
  -- ORA (R141)
  | .oraImm b => Sys2Proof.Machine.execOraImm b s
  | .oraZp b => Sys2Proof.Machine.execOraZp b s
  | .oraZpX b => Sys2Proof.Machine.execOraZpX b s
  | .oraAbs w => Sys2Proof.Machine.execOraAbs w s
  | .oraAbsX w => Sys2Proof.Machine.execOraAbsX w s
  | .oraAbsY w => Sys2Proof.Machine.execOraAbsY w s
  | .oraIndX b => Sys2Proof.Machine.execOraIndX b s
  | .oraIndY b => Sys2Proof.Machine.execOraIndY b s
  -- EOR (R142)
  | .eorImm b => Sys2Proof.Machine.execEorImm b s
  | .eorZp b => Sys2Proof.Machine.execEorZp b s
  | .eorZpX b => Sys2Proof.Machine.execEorZpX b s
  | .eorAbs w => Sys2Proof.Machine.execEorAbs w s
  | .eorAbsX w => Sys2Proof.Machine.execEorAbsX w s
  | .eorAbsY w => Sys2Proof.Machine.execEorAbsY w s
  | .eorIndX b => Sys2Proof.Machine.execEorIndX b s
  | .eorIndY b => Sys2Proof.Machine.execEorIndY b s
  -- ASL (R143)
  | .aslAcc => Sys2Proof.Machine.execAslAcc s
  | .aslZp b => Sys2Proof.Machine.execAslZp b s
  | .aslZpX b => Sys2Proof.Machine.execAslZpX b s
  | .aslAbs w => Sys2Proof.Machine.execAslAbs w s
  | .aslAbsX w => Sys2Proof.Machine.execAslAbsX w s
  -- LSR (R144)
  | .lsrAcc => Sys2Proof.Machine.execLsrAcc s
  | .lsrZp b => Sys2Proof.Machine.execLsrZp b s
  | .lsrZpX b => Sys2Proof.Machine.execLsrZpX b s
  | .lsrAbs w => Sys2Proof.Machine.execLsrAbs w s
  | .lsrAbsX w => Sys2Proof.Machine.execLsrAbsX w s
  -- ROL (R145)
  | .rolAcc => Sys2Proof.Machine.execRolAcc s
  | .rolZp b => Sys2Proof.Machine.execRolZp b s
  | .rolZpX b => Sys2Proof.Machine.execRolZpX b s
  | .rolAbs w => Sys2Proof.Machine.execRolAbs w s
  | .rolAbsX w => Sys2Proof.Machine.execRolAbsX w s
  -- ROR (R146)
  | .rorAcc => Sys2Proof.Machine.execRorAcc s
  | .rorZp b => Sys2Proof.Machine.execRorZp b s
  | .rorZpX b => Sys2Proof.Machine.execRorZpX b s
  | .rorAbs w => Sys2Proof.Machine.execRorAbs w s
  | .rorAbsX w => Sys2Proof.Machine.execRorAbsX w s
  -- BCC (R151)
  | .bcc b => Sys2Proof.Machine.execBcc b s
  -- BCS (R152)
  | .bcs b => Sys2Proof.Machine.execBcs b s
  -- BEQ (R153)
  | .beq b => Sys2Proof.Machine.execBeq b s
  -- BNE (R154)
  | .bne b => Sys2Proof.Machine.execBne b s
  -- BMI (R155)
  | .bmi b => Sys2Proof.Machine.execBmi b s
  -- BPL (R156)
  | .bpl b => Sys2Proof.Machine.execBpl b s
  -- JMP (R157, R192)
  | .jmpAbs w => Sys2Proof.Machine.execJmpAbs w s
  | .jmpInd _ => Sys2Proof.Machine.execJmpInd s
  -- JSR (R158)
  | .jsr w => Sys2Proof.Machine.execJsr w s
  -- RTS (R159)
  | .rts => Sys2Proof.Machine.execRts s
  -- PHA (R170)
  | .pha => Sys2Proof.Machine.execPha s
  -- PLA (R171)
  | .pla => Sys2Proof.Machine.execPla s
  -- CLC (R172)
  | .clc => Sys2Proof.Machine.execClc s
  -- SEC (R173)
  | .sec => Sys2Proof.Machine.execSec s
  -- NOP (R174)
  | .nop => Sys2Proof.Machine.execNop s
  -- BIT (R181)
  | .bitZp _ => Sys2Proof.Machine.execBitZp s
  | .bitAbs _ => Sys2Proof.Machine.execBitAbs s
  -- BRK (R182)
  | .brk => Sys2Proof.Machine.execBrk s
  -- RTI (R183)
  | .rti => Sys2Proof.Machine.execRti s
  -- PHP (R184)
  | .php => Sys2Proof.Machine.execPhp s
  -- PLP (R185)
  | .plp => Sys2Proof.Machine.execPlp s
  -- BVC (R186)
  | .bvc _ => Sys2Proof.Machine.execBvc s
  -- BVS (R187)
  | .bvs _ => Sys2Proof.Machine.execBvs s
  -- CLV (R188)
  | .clv => Sys2Proof.Machine.execClv s
  -- CLD (R189)
  | .cld => Sys2Proof.Machine.execCld s
  -- SED (R190)
  | .sed => Sys2Proof.Machine.execSed s
  -- CLI (R191)
  | .cli => Sys2Proof.Machine.execCli s
  -- SEI (R193)
  | .sei => Sys2Proof.Machine.execSei s

end Sys2Proof.Machine
end

