-- ==== Sys2Proof/Machine/Fetch.lean ====
section
/-! DEFINITION. What a step does before an instruction executes (spec/60_exceptions.md R202, steps 1 to 4): the budget check, the
opcode fetch, membership in EXEC_SET, and the operand bytes, in the priority of R208. Fetch reads the one memory that stores
write (spec/20_memory.md R51, R253). Also placing an instruction where the next step fetches it. -/

namespace Sys2Proof.Machine

/-- The front of a step: an instruction to execute, or an outcome to raise. -/
inductive Fetched where
  | instr (i : Instr)
  | raised (o : RunOutcome)
  deriving DecidableEq, Repr

/-- The bytes from `PC`, up to the longest instruction, as many as the address space has. -/
def State.fetchWindow (s : State) : List Byte := s.mem.window 3 s.pc.toNat

/-- Steps 1 to 4 of spec/60_exceptions.md R202. No operand byte is looked at for a byte outside EXEC_SET (R205). -/
def fetch (s : State) : Fetched :=
  if s.stepBudget ≤ s.steps then .raised .budgetExceeded
  else if inExecSet (s.byteAt s.pc) = false then .raised (.unsupportedOpcode (s.byteAt s.pc) s.pc)
  else
    match decode s.fetchWindow with
    | .instr i _ => .instr i
    | .truncated d =>
      match missingOperand d.size s with
      | some addr => .raised (.addressSpaceViolation addr s.pc)
      | none => .raised (.unsupportedOpcode (s.byteAt s.pc) s.pc)       -- no state reaches this: truncated means missing
    | .undefined _ => .raised (.unsupportedOpcode (s.byteAt s.pc) s.pc) -- no state reaches this: the byte is in EXEC_SET
    | .empty => .raised (.unsupportedOpcode (s.byteAt s.pc) s.pc)       -- no state reaches this: `PC` is in range

/-- Where three bytes fit below 65536 the next fetch stays at `PC`; else it is moved to address 0 (log entry 6). -/
def loadPoint (s : State) : Addr := if s.pc.toNat + 3 ≤ Config.memorySize then s.pc else 0

/-- The state with these bytes where its next step fetches, running, and with at least one more instruction in its budget. -/
def State.withCode (s : State) (bytes : List Byte) : State :=
  { s with
    pc := loadPoint s
    mem := s.mem.writeBytes (loadPoint s).toNat bytes
    outcome := .running
    stepBudget := max s.stepBudget (s.steps + 1) }

end Sys2Proof.Machine
end

