-- ==== Sys2Proof/Machine/Step.lean ====
section
/-! DEFINITION. One step of the machine (spec/60_exceptions.md R202), and placing an instruction for the next step. -/

namespace Sys2Proof.Machine

/-- One step. A run that has ended has no further step (spec/60_exceptions.md R212). -/
def step (s : State) : Host.Outcome State Fault Refusal :=
  if s.outcome = .running then
    match fetch s with
    | .instr i => exec i s
    | .raised o => raise o s
  else .fault .runEnded

/-- `s` with the instruction whose bits are `w`, numbered as spec/opcode_table.json numbers them, stored where `step` fetches its
next instruction (log entry 6). -/
def State.withFetchWord (s : State) (nbits w : Nat) : State := s.withCode (tableWordBytes nbits w)

end Sys2Proof.Machine
end

