-- ==== Sys2Proof/Machine/Launch.lean ====
section
/-! DEFINITION. The host interface of a run (spec/70_reset_and_hazards.md R230 to R233; spec/60_exceptions.md R201, R221): the inputs
of a launch, when a launch is refused, the state it makes, and what the host reads when the run has ended. Reset is launch (R237). -/

namespace Sys2Proof.Machine

/-- The inputs of a run, with what `MEM0` is built from (spec/70_reset_and_hazards.md R230, R233). Addresses, snapshot bytes and
code bytes are the host's numbers, checked by `LaunchInputs.wf`. `fill` is FILL, a total function from address to byte, as a
memory (every such function is one: log entry 11); `loadAddress` is `none` where the code is placed at START. -/
structure LaunchInputs where
  start       : Nat
  stepBudget  : Nat
  a0          : Byte
  x0          : Byte
  y0          : Byte
  sp0         : Byte
  n0          : Bool
  z0          : Bool
  c0          : Bool
  fill        : Memory
  snapshot    : List (Nat × Nat)
  code        : List Nat
  loadAddress : Option Nat
  deriving DecidableEq, Repr

/-- Where the code goes: the load address, START unless the host says otherwise (spec/70_reset_and_hazards.md R233). -/
def LaunchInputs.loadAt (li : LaunchInputs) : Nat := li.loadAddress.getD li.start

/-- The preconditions of a launch (spec/60_exceptions.md R221): START, the snapshot and the code inside the address space, byte
values below 256, and FILL a memory in canonical form. -/
abbrev LaunchInputs.wf (li : LaunchInputs) : Prop :=
  li.start < Config.memorySize ∧
  (∀ p ∈ li.snapshot, p.1 < Config.memorySize ∧ p.2 < 256) ∧
  (∀ v ∈ li.code, v < 256) ∧
  li.loadAt + li.code.length ≤ Config.memorySize ∧
  li.fill.wf

/-- Write each snapshot assignment over the fill; a later assignment to the same address wins (log entry 11). -/
def applySnapshot (m : Memory) : List (Nat × Nat) → Memory
  | [] => m
  | (addr, v) :: rest => applySnapshot (m.write addr (BitVec.ofNat 8 v)) rest

/-- `MEM0`: the fill, then the snapshot, then the code, which wins an overlap (spec/70_reset_and_hazards.md R233). -/
def LaunchInputs.mem0 (li : LaunchInputs) : Memory :=
  (applySnapshot li.fill li.snapshot).writeBytes li.loadAt (li.code.map (BitVec.ofNat 8))

/-- The launch state (spec/10_state.md R43): the inputs, and the hidden state as the hardware resets it (R238). -/
def LaunchInputs.state (li : LaunchInputs) : State :=
  { a := li.a0, x := li.x0, y := li.y0, sp := li.sp0, pc := BitVec.ofNat 16 li.start
    n := li.n0, z := li.z0, c := li.c0, mem := li.mem0
    steps := 0, depth := 0, outcome := .running, stepBudget := li.stepBudget }

/-- A launch, or nothing where a host argument breaks a precondition: "the run or the decode does not start, no state is
produced" (spec/60_exceptions.md R221). -/
def launch (li : LaunchInputs) : Option State := if li.wf then some li.state else none

/-- FILL as a memory: the canonical list of a total function from address to byte (log entry 11). -/
def Memory.ofFn (f : Nat → Byte) : Memory :=
  ((List.range Config.memorySize).map fun k => (k, f k)).filter fun p => p.2 != Config.fillByte

/-- The numeric code of a terminal outcome (spec/60_exceptions.md R201); `Running` has none. -/
def RunOutcome.code : RunOutcome → Option Nat
  | .running => none
  | .returned => some 0
  | .unsupportedOpcode _ _ => some 1
  | .budgetExceeded => some 2
  | .addressSpaceViolation _ _ => some 3

/-- Only `Returned` is a success (spec/60_exceptions.md R200). -/
def RunOutcome.success (o : RunOutcome) : Bool := o == .returned

/-- What the host reads after a run: registers, flags, memory and the outcome; `steps` and `depth` are not outputs
(spec/70_reset_and_hazards.md R231). -/
structure RunResult where
  a       : Byte
  x       : Byte
  y       : Byte
  sp      : Byte
  pc      : Addr
  n       : Bool
  z       : Bool
  c       : Bool
  mem     : Memory
  outcome : RunOutcome
  deriving DecidableEq, Repr

/-- The outputs, "available to the host when `outcome != Running`" (spec/70_reset_and_hazards.md R231). -/
def State.result (s : State) : Option RunResult :=
  if s.outcome = .running then none
  else some { a := s.a, x := s.x, y := s.y, sp := s.sp, pc := s.pc, n := s.n, z := s.z, c := s.c, mem := s.mem, outcome := s.outcome }

end Sys2Proof.Machine
end

