-- ==== Sys2Proof/Machine/Run.lean ====
section
/-! DEFINITION. A whole run (spec/60_exceptions.md R222): steps from the launch state until the first that raises. -/

namespace Sys2Proof.Machine

/-- The state after up to `k` steps, the last one the step that ends the run. -/
def State.after : Nat → State → State
  | 0, s => s
  | k + 1, s =>
    match step s with
    | .next t => State.after k t
    | .fault _ => s
    | .refused _ => s

/-- One step more than the budget still allows is enough to end any run (spec/60_exceptions.md R222). -/
def State.stepsToEnd (s : State) : Nat := s.stepBudget - s.steps + 1

/-- A run from its inputs to what the host reads, or nothing where the launch is refused. -/
def runFrom (li : LaunchInputs) : Option RunResult :=
  match launch li with
  | some s => (State.after s.stepsToEnd s).result
  | none => none

end Sys2Proof.Machine
end

