-- ==== Sys2Proof/Safety.lean ====
section
/-! DEFINITION. What counts as a safe run, in the terms claims use, and the words the claims share: when a step can execute, what
an instruction reads, where it stores, and the invariant of every state of a run. -/

namespace Sys2Proof.Machine

/-! ### Conditions on the state alone -/

/-- A step that reaches its fetch: the run has not ended and the budget allows one more instruction
(spec/60_exceptions.md R202, R206). -/
abbrev Ready (s : State) : Prop := s.outcome = .running ∧ s.steps < s.stepBudget

/-- Every byte of an instruction of this size at `PC` is in the address space (spec/20_memory.md R56). -/
abbrev BytesInSpace (size : Nat) (s : State) : Prop := s.pc.toNat + size ≤ 65536

/-- The address after an instruction of this size at `PC` is in the address space (spec/10_state.md R24). -/
abbrev CanAdvance (size : Nat) (s : State) : Prop := s.pc.toNat + size ≤ 65535

/-- The operand byte `M` of a load, an ALU operation or a comparison, where its effective address is in the address space
(spec/00_scope.md, "Operand shorthand"). -/
def operandValue (src : Source) (s : State) : Option Byte :=
  match src with
  | .imm b => some b
  | .mem r => if effectiveAddress r s ≤ 65535 then some (s.mem.read (effectiveAddress r s)) else none

/-! ### Where an instruction stores -/

/-- The addresses an instruction stores to, each by the expression its meaning uses: the effective address of STA, STX, STY, INC,
DEC and the memory forms of ASL, LSR, ROL, ROR; the stack slots of PHA and JSR; none for any other form. -/
def storedAddresses (i : Instr) (s : State) : List Nat :=
  if i.mnemonic ∈ [.sta, .stx, .sty, .inc, .dec, .asl, .lsr, .rol, .ror] then
    match i.form.memRef? with
    | some r => [effectiveAddress r s]
    | none => []
  else if i.mnemonic = .pha then [(stackAddr s.sp).toNat]
  else if i.mnemonic = .jsr then [(stackAddr s.sp).toNat, (stackAddr (s.sp - 1)).toNat]
  else []

/-! ### Safe runs -/

/-- A safe end of a run: "Only `Returned` is a success" (spec/60_exceptions.md R200). -/
abbrev SafeEnd (s : State) : Prop := s.outcome = .returned

/-- The step from `s` to `t` raised `AddressSpaceViolation` with an address R201 allows, and committed nothing
(spec/60_exceptions.md R201, R203, R207). -/
def Violation (s t : State) : Prop :=
  ∃ addr : Int, (addr < 0 ∨ 65535 < addr) ∧ -126 ≤ addr ∧ addr ≤ 0x100FE ∧
    t = s.raised (.addressSpaceViolation addr s.pc)

/-- What a terminal outcome says about the final state (spec/60_exceptions.md R201, R203 to R207). -/
def OutcomeFits (s : State) : Prop :=
  match s.outcome with
  | .running => True
  | .returned => s.depth = 0 ∧ 0 < s.steps ∧ s.byteAt s.pc = 0x60
  | .unsupportedOpcode byte address => address = s.pc ∧ s.byteAt s.pc = byte ∧ inExecSet byte = false
  | .budgetExceeded => s.steps = s.stepBudget
  | .addressSpaceViolation address pc => pc = s.pc ∧ (address < 0 ∨ 65535 < address) ∧ -126 ≤ address ∧ address ≤ 0x100FE

/-- The invariant of every state of a run: memory is in canonical form, at most `STEP_BUDGET` instructions have committed
(spec/60_exceptions.md R206), no more calls are outstanding than instructions committed (spec/10_state.md R38), and a
recorded outcome fits the state. -/
def State.Inv (s : State) : Prop :=
  s.mem.wf ∧ s.steps ≤ s.stepBudget ∧ s.depth ≤ s.steps ∧ OutcomeFits s

end Sys2Proof.Machine
end

