-- ==== Sys2Proof/Certificates/Slice0/Obligations.lean ====
section
/-! DEFINITION. The statements for the provers, from the numbered rules of spec/. `Claims` holds the words they share, each spelled from
the spec and not from the model's own operation. A result is always the whole next state, `{ s with … }`: what is not named
there is unchanged. Where the same address is checked twice the order is that of spec/60_exceptions.md R208. -/

open Sys2Proof Sys2Proof.Machine

/-! ### Words the statements share -/

namespace Sys2Proof.Claims

/-- The rows of a mnemonic, in byte order: byte, mode, size, tier (spec/30_encoding.md R83, R88). -/
def rowsFor (m : Mnemonic) : List (Byte × Mode × Nat × Tier) :=
  (allRows.filter fun r => r.mnemonic = m).map fun r => (r.byte, r.mode, r.size, r.tier)

/-- The encoding table of a rule: the mnemonic has these rows and no other, every instruction of the mnemonic has one of them, and
every one of them is some instruction's. -/
def Encodings (m : Mnemonic) (table : List (Byte × Mode × Nat × Tier)) : Prop :=
  rowsFor m = table ∧
  (∀ i : Instr, i.mnemonic = m → ∃ t, (i.opcode, i.mode, i.size, t) ∈ table) ∧
  ∀ e ∈ table, ∃ i : Instr, i.mnemonic = m ∧ i.opcode = e.1 ∧ i.mode = e.2.1

/-- The state a fatal outcome leaves: `outcome` and nothing else (spec/60_exceptions.md R203). -/
abbrev fatal (s : State) (o : RunOutcome) : State := { s with outcome := o }

/-- The state `AddressSpaceViolation(addr, PC)` leaves. -/
abbrev violation (s : State) (addr : Int) : State := fatal s (.addressSpaceViolation addr s.pc)

/-- The address after an instruction of this size. -/
abbrev nextPc (i : Instr) (s : State) : Addr := s.pc + BitVec.ofNat 16 i.size

/-- "Outcomes common to all": an operand byte beyond 0xFFFF, an effective address beyond 0xFFFF, an advance beyond 0xFFFF, each with
nothing committed (the headers of spec/40_load_store_transfer.md, 41_arithmetic_compare.md and 42_logic_shift_rotate.md). -/
def CommonOutcomes (i : Instr) : Prop :=
  ∀ s : State,
    (65536 < s.pc.toNat + i.size → exec i s = .next (violation s 65536)) ∧
    (∀ r, i.form = .mem r → s.pc.toNat + i.size ≤ 65536 → 65535 < effectiveAddress r s →
      exec i s = .next (violation s (effectiveAddress r s))) ∧
    ((∀ r, i.form = .mem r → effectiveAddress r s ≤ 65535) → s.pc.toNat + i.size = 65536 →
      exec i s = .next (violation s (s.pc.toNat + i.size)))

/-- "`AddressSpaceViolation(0x10000, 0xFFFF)` only when the instruction is at 0xFFFF" (spec/40_load_store_transfer.md R106). -/
def FailsAtTop (i : Instr) : Prop :=
  ∀ s : State, s.pc = 0xFFFF → exec i s = .next (fatal s (.addressSpaceViolation 0x10000 0xFFFF))

/-- The operand byte a shift or a rotate works on in memory, where its address is in the address space. -/
def memByte (i : Instr) (s : State) : Option (Nat × Byte) :=
  match i.form.memRef? with
  | some r => if effectiveAddress r s ≤ 65535 then some (effectiveAddress r s, s.mem.read (effectiveAddress r s)) else none
  | none => none

/-- One rotation to the left of the nine bits `(v, C)` (spec/42_logic_shift_rotate.md R145). -/
def rolPair (p : Byte × Bool) : Byte × Bool := ((p.1 <<< 1) ||| BitVec.ofNat 8 p.2.toNat, p.1.getLsbD 7)

/-- One rotation to the right of the nine bits `(C, v)` (spec/42_logic_shift_rotate.md R146). -/
def rorPair (p : Byte × Bool) : Byte × Bool := ((p.1 >>> 1) ||| BitVec.ofNat 8 (128 * p.2.toNat), p.1.getLsbD 0)

/-- The condition of a branch holds (spec/43_branch_jump_call.md R151 to R156); no other instruction is a branch. -/
def branchTaken (i : Instr) (s : State) : Bool :=
  if i.mnemonic = .bcc then !s.c else if i.mnemonic = .bcs then s.c
  else if i.mnemonic = .beq then s.z else if i.mnemonic = .bne then !s.z
  else if i.mnemonic = .bmi then s.n else if i.mnemonic = .bpl then !s.n else false

/-- The integer `T = PC + 2 + D` (spec/43_branch_jump_call.md R150). -/
abbrev target (s : State) (b : Byte) : Int := (s.pc.toNat : Int) + 2 + b.toInt

/-- The common rule of the branches for a branch `i` with displacement byte `b` and condition `taken`
(spec/43_branch_jump_call.md R150). -/
def Branches (i : Instr) (b : Byte) (taken : State → Bool) : Prop :=
  i.form = .rel b ∧ i.size = 2 ∧
  ∀ s : State,
    (s.pc = 0xFFFF → exec i s = .next (violation s (s.pc.toNat + 1))) ∧
    (s.pc ≠ 0xFFFF → taken s = true → 0 ≤ target s b ∧ target s b ≤ 65535 →
      exec i s = .next { s with pc := BitVec.ofInt 16 (target s b), steps := s.steps + 1 }) ∧
    (s.pc ≠ 0xFFFF → taken s = true → target s b < 0 ∨ 65535 < target s b →
      exec i s = .next (violation s (target s b))) ∧
    (s.pc ≠ 0xFFFF → taken s = false → s.pc ≠ 0xFFFE →
      exec i s = .next { s with pc := s.pc + 2, steps := s.steps + 1 }) ∧
    (taken s = false → s.pc = 0xFFFE → exec i s = .next (violation s (s.pc.toNat + 2)))

/-- The address an RTS with a call outstanding resumes at, as an integer: the two pulled bytes, the low one first, plus one
(spec/43_branch_jump_call.md R159). -/
def returnTarget (s : State) : Nat :=
  (s.mem.read (0x0100 + (s.sp + 2).toNat)).toNat * 256 + (s.mem.read (0x0100 + (s.sp + 1).toNat)).toNat + 1

/-- The operand of a record (spec/30_encoding.md R94). -/
def recordOperandOf (f : OperandForm) : RecordOperand :=
  match f with
  | .implied => .none | .accumulator => .none
  | .imm b => .byte b | .rel b => .byte b
  | .mem (.zp b) => .byte b | .mem (.zpX b) => .byte b | .mem (.zpY b) => .byte b
  | .mem (.indX b) => .byte b | .mem (.indY b) => .byte b
  | .mem (.abs w) => .word w | .mem (.absX w) => .word w | .mem (.absY w) => .word w
  | .jump w => .word w | .pointer w => .word w

/-- The target of a record at address `a` (spec/30_encoding.md R93). -/
def recordTargetOf (f : OperandForm) (a : Nat) : RecordTarget :=
  match f with
  | .rel b =>
    if 0 ≤ (a : Int) + 2 + b.toInt ∧ (a : Int) + 2 + b.toInt ≤ 65535 then .resolved (BitVec.ofInt 16 ((a : Int) + 2 + b.toInt))
    else .invalid
  | .mem (.abs w) => .resolved w | .mem (.absX w) => .resolved w | .mem (.absY w) => .resolved w
  | .jump w => .resolved w | .pointer w => .resolved w
  | .implied => .absent | .accumulator => .absent | .imm _ => .absent
  | .mem (.zp _) => .absent | .mem (.zpX _) => .absent | .mem (.zpY _) => .absent
  | .mem (.indX _) => .absent | .mem (.indY _) => .absent

/-- The record of an instruction whose opcode byte stands at address `a` (spec/30_encoding.md R94). -/
def recordOf (i : Instr) (a : Nat) : Record :=
  { address := BitVec.ofNat 16 a, mnemonic := i.mnemonic, mode := i.mode, size := i.size, raw := encode i
    operand := recordOperandOf i.form, target := recordTargetOf i.form a }

/-- The raw bytes of an element of the Decoder's output. -/
def itemBytes : DecodedItem → List Byte
  | .record r => r.raw
  | .placeholder _ b => [b]

/-- The address of an element of the Decoder's output. -/
def itemAddress : DecodedItem → Addr
  | .record r => r.address
  | .placeholder a _ => a

/-- An opcode byte that is decoded and not executed, with the descriptor its rule gives: (a), (b) and (d) of
spec/45_decoded_not_executed.md R180. No operand byte is looked at: the answer holds wherever `PC` is. -/
def DecodedOnly (op : Byte) (d : Descriptor) : Prop :=
  opcodeTable op = some d ∧ inExecSet op = false ∧
  (∀ i : Instr, i.opcode = op → i.descriptor = d ∧
    (∀ s, exec i s = .next (fatal s (.unsupportedOpcode op s.pc))) ∧
    (∀ a, a + d.size ≤ 65536 → decodeBuffer (encode i) a = some [.record (recordOf i a)])) ∧
  (∀ s, Ready s → s.byteAt s.pc = op → step s = .next (fatal s (.unsupportedOpcode op s.pc)))

/-- Tier S (spec/30_encoding.md R88). -/
def tierS : List Byte := [0x60, 0x85, 0x8D, 0xA9]

/-- Tier C (spec/30_encoding.md R88). -/
def tierC : List Byte :=
  [0x06, 0x0A, 0x0E, 0x10, 0x16, 0x1E, 0x20, 0x26, 0x2A, 0x2E, 0x30, 0x36, 0x3E, 0x46, 0x4A, 0x4C, 0x4E, 0x56, 0x5E, 0x61,
   0x65, 0x66, 0x69, 0x6A, 0x6D, 0x6E, 0x71, 0x75, 0x76, 0x79, 0x7D, 0x7E, 0x81, 0x90, 0x91, 0x95, 0x99, 0x9D, 0xA1, 0xA5,
   0xAD, 0xB0, 0xB1, 0xB5, 0xB9, 0xBD, 0xC0, 0xC1, 0xC4, 0xC5, 0xC9, 0xCC, 0xCD, 0xD0, 0xD1, 0xD5, 0xD9, 0xDD, 0xE0, 0xE1,
   0xE4, 0xE5, 0xE9, 0xEC, 0xED, 0xF0, 0xF1, 0xF5, 0xF9, 0xFD]

/-- Tier G (spec/30_encoding.md R88). -/
def tierG : List Byte :=
  [0x01, 0x05, 0x09, 0x0D, 0x11, 0x15, 0x18, 0x19, 0x1D, 0x21, 0x25, 0x29, 0x2D, 0x31, 0x35, 0x38, 0x39, 0x3D, 0x41, 0x45,
   0x48, 0x49, 0x4D, 0x51, 0x55, 0x59, 0x5D, 0x68, 0x84, 0x86, 0x88, 0x8A, 0x8C, 0x8E, 0x94, 0x96, 0x98, 0x9A, 0xA0, 0xA2,
   0xA4, 0xA6, 0xA8, 0xAA, 0xAC, 0xAE, 0xB4, 0xB6, 0xBA, 0xBC, 0xBE, 0xC6, 0xC8, 0xCA, 0xCE, 0xD6, 0xDE, 0xE6, 0xE8, 0xEA,
   0xEE, 0xF6, 0xFE]

/-- Tier D (spec/30_encoding.md R88). -/
def tierD : List Byte :=
  [0x00, 0x08, 0x24, 0x28, 0x2C, 0x40, 0x50, 0x58, 0x6C, 0x70, 0x78, 0xB8, 0xD8, 0xF8]

/-- The undefined encodings (spec/30_encoding.md R90). -/
def undefinedBytes : List Byte :=
  [0x02, 0x03, 0x04, 0x07, 0x0B, 0x0C, 0x0F, 0x12, 0x13, 0x14, 0x17, 0x1A, 0x1B, 0x1C, 0x1F, 0x22, 0x23, 0x27, 0x2B, 0x2F,
   0x32, 0x33, 0x34, 0x37, 0x3A, 0x3B, 0x3C, 0x3F, 0x42, 0x43, 0x44, 0x47, 0x4B, 0x4F, 0x52, 0x53, 0x54, 0x57, 0x5A, 0x5B,
   0x5C, 0x5F, 0x62, 0x63, 0x64, 0x67, 0x6B, 0x6F, 0x72, 0x73, 0x74, 0x77, 0x7A, 0x7B, 0x7C, 0x7F, 0x80, 0x82, 0x83, 0x87,
   0x89, 0x8B, 0x8F, 0x92, 0x93, 0x97, 0x9B, 0x9C, 0x9E, 0x9F, 0xA3, 0xA7, 0xAB, 0xAF, 0xB2, 0xB3, 0xB7, 0xBB, 0xBF, 0xC2,
   0xC3, 0xC7, 0xCB, 0xCF, 0xD2, 0xD3, 0xD4, 0xD7, 0xDA, 0xDB, 0xDC, 0xDF, 0xE2, 0xE3, 0xE7, 0xEB, 0xEF, 0xF2, 0xF3, 0xF4,
   0xF7, 0xFA, 0xFB, 0xFC, 0xFF]

/-- The instruction's `PC` can be set to something other than `PC + size` (spec/10_state.md R25): JMP absolute, a taken branch,
JSR, RTS. -/
def redirects (i : Instr) (s : State) : Bool :=
  branchTaken i s || decide (i.mnemonic = .jsr) || decide (i.mnemonic = .rts) || decide (i.mnemonic = .jmp ∧ i.mode = .absolute)

end Sys2Proof.Claims

/-! ### Encoding and the Decoder -/

/-- Decoding an encoded well-formed instruction gives it back, with every operand at every value, and takes exactly its bytes. -/
def Obligations.DecodeOfEncode : Prop :=
  ∀ (i : Instr) (rest : List Byte), i.wf = true → decode (encode i ++ rest) = .instr i rest

/-- Each sequence of bytes has one meaning: what decodes to an instruction is that instruction's encoding. -/
def Obligations.EncodeOfDecode : Prop :=
  ∀ (bytes rest : List Byte) (i : Instr), decode bytes = .instr i rest → i.wf = true ∧ bytes = encode i ++ rest

/-- The rows the source shows (spec/30_encoding.md R81), and one word of every other family, written out from the encoding tables
of the instruction rules. -/
def Obligations.ShownWords : Prop :=
  decodeBuffer [0xA9, 0x00, 0x8D, 0x01, 0x20] 0x8000 =
    some [.record ⟨0x8000, .lda, .immediate, 2, [0xA9, 0x00], .byte 0x00, .absent⟩,
      .record ⟨0x8002, .sta, .absolute, 3, [0x8D, 0x01, 0x20], .word 0x2001, .resolved 0x2001⟩] ∧
  decodeBuffer [0x85, 0xF6, 0x60] 0x8000 =
    some [.record ⟨0x8000, .sta, .zeroPage, 2, [0x85, 0xF6], .byte 0xF6, .absent⟩,
      .record ⟨0x8002, .rts, .implied, 1, [0x60], .none, .absent⟩] ∧
  (allRows.filter fun r => r.tier = .s).map (fun r => (r.byte, r.mnemonic, r.size, r.mode)) =
    [(0x60, .rts, 1, .implied), (0x85, .sta, 2, .zeroPage), (0x8D, .sta, 3, .absolute), (0xA9, .lda, 2, .immediate)] ∧
  decode [0x71, 0x40] = .instr (.adcIndY 0x40) [] ∧ decode [0xDD, 0x00, 0x03] = .instr (.cmpAbsX 0x0300) [] ∧
  decode [0x41, 0x10] = .instr (.eorIndX 0x10) [] ∧ decode [0x2A] = .instr .rolAcc [] ∧
  decode [0xD0, 0x80] = .instr (.bne 0x80) [] ∧ decode [0x20, 0x10, 0x80] = .instr (.jsr 0x8010) [] ∧
  decode [0x68] = .instr .pla [] ∧ decode [0x96, 0xF0] = .instr (.stxZpY 0xF0) [] ∧
  decode [0x6C, 0x00, 0x03] = .instr (.jmpInd 0x0300) []

/-- How the operand bytes make the operand, for every instruction (spec/30_encoding.md R74 to R77): the immediate value and the
zero-page address are byte 1 as it stands, a two-byte operand is `byte2*256 + byte1` and gives its bytes back, and a relative
operand is the signed byte, its target `a + 2 + D`. -/
def Obligations.OperandAssembly : Prop :=
  ∀ (op b1 b2 : Byte) (rest tail : List Byte) (i : Instr), decode (op :: b1 :: b2 :: rest) = .instr i tail →
    tail = (b1 :: b2 :: rest).drop (i.size - 1) ∧
    (i.mode = .immediate → i.form = .imm b1) ∧
    (i.mode = .zeroPage → i.form = .mem (.zp b1)) ∧ (i.mode = .zeroPageX → i.form = .mem (.zpX b1)) ∧
    (i.mode = .zeroPageY → i.form = .mem (.zpY b1)) ∧ (i.mode = .indexedIndirect → i.form = .mem (.indX b1)) ∧
    (i.mode = .indirectIndexed → i.form = .mem (.indY b1)) ∧
    (i.mode ∈ [.absolute, .absoluteX, .absoluteY, .indirect] →
      ∃ w : Addr, w.toNat = b2.toNat * 256 + b1.toNat ∧ w.toNat % 256 = b1.toNat ∧ w.toNat / 256 = b2.toNat ∧
        (i.form = .mem (.abs w) ∨ i.form = .mem (.absX w) ∨ i.form = .mem (.absY w) ∨ i.form = .jump w ∨ i.form = .pointer w)) ∧
    (i.mode = .relative → i.form = .rel b1 ∧
      sext8 b1 = (if b1.toNat ≤ 0x7F then (b1.toNat : Int) else (b1.toNat : Int) - 256) ∧
      ∀ a : Addr, branchTarget a b1 = (a.toNat : Int) + 2 + sext8 b1)

/-- Every descriptor of the Opcode Table has the size R73 gives its tag, and no byte has two (spec/30_encoding.md R73, R80). The
table is the spec's own, fixed: log entry 8. -/
def Obligations.DescriptorSizes : Prop :=
  (∀ (op : Byte) (d : Descriptor), opcodeTable op = some d →
    (d.size = 1 ∨ d.size = 2 ∨ d.size = 3) ∧
    (d.size = 1 ↔ d.mode ∈ [.implied, .accumulator]) ∧
    (d.size = 2 ↔ d.mode ∈ [.immediate, .zeroPage, .zeroPageX, .zeroPageY, .indexedIndirect, .indirectIndexed, .relative]) ∧
    (d.size = 3 ↔ d.mode ∈ [.absolute, .absoluteX, .absoluteY, .indirect])) ∧
  (allRows.map Row.byte).Nodup ∧
  ∀ op : Byte, (opcodeTable op).isSome = (allRows.map Row.byte).contains op

/-- EXEC_SET by grounding tier (spec/30_encoding.md R88), and the three classes of bytes (R91). That the widest set is taken is the
spec's "`EXEC_SET` is tier S, C and G together"; a model may narrow it, and log entry 7 says that this one does not. -/
def Obligations.ExecSetByTier : Prop :=
  (allRows.filter fun r => r.tier = .s).map Row.byte = Claims.tierS ∧
  (allRows.filter fun r => r.tier = .c).map Row.byte = Claims.tierC ∧
  (allRows.filter fun r => r.tier = .g).map Row.byte = Claims.tierG ∧
  (allRows.filter fun r => r.tier = .d).map Row.byte = Claims.tierD ∧
  (Claims.tierS.length, Claims.tierC.length, Claims.tierG.length, Claims.tierD.length) = (4, 70, 63, 14) ∧
  (∀ op : Byte, inExecSet op = (Claims.tierS ++ Claims.tierC ++ Claims.tierG).contains op) ∧
  (allRows.filter Row.executed).length = 137 ∧ Claims.undefinedBytes.length = 105

/-- The 105 undefined bytes: no entry in the table, a placeholder from the Decoder, `UnsupportedOpcode` from the Executor
(spec/30_encoding.md R90). -/
def Obligations.UndefinedBytes : Prop :=
  ∀ op : Byte,
    (opcodeTable op = none ↔ op ∈ Claims.undefinedBytes) ∧
    (op ∈ Claims.undefinedBytes →
      (∀ a, a + 1 ≤ 65536 → decodeBuffer [op] a = some [.placeholder (BitVec.ofNat 16 a) op]) ∧
      ∀ s, Ready s → s.byteAt s.pc = op → step s = .next (Claims.fatal s (.unsupportedOpcode op s.pc)))

/-- An instruction's bytes decode to one record whose fields are those of spec/30_encoding.md R94, its target resolved as R93 says:
for a branch only where it is in the address space, for the two-byte operands always, for every other mode none. -/
def Obligations.DecoderRecords : Prop :=
  ∀ (i : Instr) (a : Nat), a + i.size ≤ 65536 →
    decodeBuffer (encode i) a = some [.record (Claims.recordOf i a)] ∧
    (encode i).length = i.size ∧ opcodeTable i.opcode = some i.descriptor

/-- The loop of the Decoder (spec/30_encoding.md R85), one turn at a time: a call outside the address space gets no output; an
undefined byte gives a placeholder and decoding goes on at the next byte (R87); an instruction cut short ends the output
(R86); else a record, and on behind it. -/
def Obligations.DecoderLoop : Prop :=
  (∀ buf start, decodeBuffer buf start = none ↔ 65536 < start + buf.length) ∧
  (∀ start, start ≤ 65536 → decodeBuffer [] start = some []) ∧
  (∀ (op : Byte) (rest : List Byte) (start : Nat), start + (rest.length + 1) ≤ 65536 →
    (opcodeTable op = none → decodeBuffer (op :: rest) start =
      (decodeBuffer rest (start + 1)).map (DecodedItem.placeholder (BitVec.ofNat 16 start) op :: ·)) ∧
    (∀ d, opcodeTable op = some d → rest.length + 1 < d.size → decodeBuffer (op :: rest) start = some []) ∧
    (∀ d, opcodeTable op = some d → d.size ≤ rest.length + 1 →
      ∃ i, decode (op :: rest) = .instr i ((op :: rest).drop d.size) ∧ encode i = (op :: rest).take d.size ∧
        decodeBuffer (op :: rest) start =
          (decodeBuffer ((op :: rest).drop d.size) (start + d.size)).map (DecodedItem.record (Claims.recordOf i start) :: ·))) ∧
  decodeBuffer [0xA9] 0x8000 = some [] ∧
  decodeBuffer [0xA9, 0x00, 0x8D, 0x01] 0x8000 =
    some [.record ⟨0x8000, .lda, .immediate, 2, [0xA9, 0x00], .byte 0x00, .absent⟩]

/-- The Decoder drops no byte: its records and placeholders, in order, are the buffer, but for an instruction cut short at the end,
and each stands at the address of its first byte (spec/30_encoding.md R70, R85, R86). A placeholder stands for a byte with no entry
and has the fields that D21 of spec/92_eei_decisions.md gives it; that its mode is implied is D21's word over R87's, log entry 10. -/
def Obligations.DecoderCoversBuffer : Prop :=
  ∀ (buf : List Byte) (start : Nat) (items : List DecodedItem), decodeBuffer buf start = some items →
    (∃ tail, buf = items.flatMap Claims.itemBytes ++ tail ∧
      (tail = [] ∨ ∃ op tl d, tail = op :: tl ∧ opcodeTable op = some d ∧ tail.length < d.size)) ∧
    (∀ before it after, items = before ++ it :: after →
      Claims.itemAddress it = BitVec.ofNat 16 (start + (before.flatMap Claims.itemBytes).length)) ∧
    (∀ it ∈ items, it.address = Claims.itemAddress it ∧ it.raw = Claims.itemBytes it ∧ it.size = it.raw.length) ∧
    ∀ a b, DecodedItem.placeholder a b ∈ items →
      opcodeTable b = none ∧ (DecodedItem.placeholder a b).mnemonic = .undefined ∧ (DecodedItem.placeholder a b).mode = .implied ∧
        (DecodedItem.placeholder a b).size = 1 ∧ (DecodedItem.placeholder a b).operand = .none ∧
        (DecodedItem.placeholder a b).target = .absent

/-! ### The step -/

/-- A step runs the decoded instruction (spec/60_exceptions.md R202): where the run goes on and the bytes at `PC` are an
instruction's, the step is that instruction's execution at that state, nothing added. -/
def Obligations.StepRunsDecoded : Prop :=
  (∀ (s : State) (i : Instr) (rest : List Byte), Ready s → decode s.fetchWindow = .instr i rest → step s = exec i s) ∧
  ∀ (s : State) (i : Instr), Ready s → s.pc.toNat + (encode i).length ≤ 65536 →
    (∀ k b, (encode i)[k]? = some b → s.mem.read (s.pc.toNat + k) = b) → step s = exec i s

/-- Instruction fetch (spec/20_memory.md R56, decision D10): the bytes at `PC`, `PC+1`, `PC+2` that the size of the opcode's row calls
for are the instruction; where one of them lies beyond 0xFFFF the step raises, and nothing wraps to address 0. -/
def Obligations.OperandFetch : Prop :=
  ∀ (s : State) (d : Descriptor), Ready s → opcodeTable (s.mem.read s.pc.toNat) = some d →
    inExecSet (s.mem.read s.pc.toNat) = true →
    (s.pc.toNat + d.size ≤ 65536 →
      ∃ i, decode ([s.mem.read s.pc.toNat, s.mem.read (s.pc.toNat + 1), s.mem.read (s.pc.toNat + 2)].take d.size) = .instr i [] ∧
        step s = exec i s) ∧
    (2 ≤ d.size → 65535 < s.pc.toNat + 1 → step s = .next (Claims.violation s (s.pc.toNat + 1))) ∧
    (d.size = 3 → s.pc.toNat + 1 ≤ 65535 → 65535 < s.pc.toNat + 2 → step s = .next (Claims.violation s (s.pc.toNat + 2)))

/-- `BudgetExceeded` (spec/60_exceptions.md R206, decision D9). -/
def Obligations.BudgetCheck : Prop :=
  (∀ s : State, s.outcome = .running → s.stepBudget ≤ s.steps → step s = .next (Claims.fatal s .budgetExceeded)) ∧
  (∀ s t : State, s.outcome = .running → step s = .next t → t.outcome = .budgetExceeded → s.stepBudget ≤ s.steps) ∧
  (∀ (li : LaunchInputs) (s : State) (k : Nat), launch li = some s → (State.after k s).steps ≤ li.stepBudget) ∧
  (∀ s : State, s.outcome = .running → s.steps + 1 = s.stepBudget → s.mem.read s.pc.toNat = 0x60 → s.depth = 0 →
    ∃ t, step s = .next t ∧ t.outcome = .returned ∧ t.steps = s.stepBudget) ∧
  ∀ (li : LaunchInputs) (s : State), launch li = some s → li.stepBudget = 0 →
    step s = .next (Claims.fatal s .budgetExceeded)

/-- `UnsupportedOpcode` (spec/60_exceptions.md R205): for a tier D byte and an undefined byte alike, whatever the operand bytes and
even where there are none. -/
def Obligations.UnsupportedByte : Prop :=
  (∀ s : State, Ready s → s.mem.read s.pc.toNat ∈ Claims.tierD ++ Claims.undefinedBytes →
    step s = .next (Claims.fatal s (.unsupportedOpcode (s.mem.read s.pc.toNat) s.pc))) ∧
  ∀ (s t : State) (byte : Byte) (address : Addr), s.outcome = .running → step s = .next t →
    t.outcome = .unsupportedOpcode byte address →
      byte = s.mem.read s.pc.toNat ∧ address = s.pc ∧ byte ∈ Claims.tierD ++ Claims.undefinedBytes

/-- A run that has ended has no further step (spec/60_exceptions.md R212, which the spec marks as derived): the model's one fault.
Log entry 1. -/
def Obligations.EndedRunIsStuck : Prop :=
  ∀ s : State, s.outcome ≠ .running ↔ step s = .fault .runEnded

/-- The outcome table (spec/60_exceptions.md R201): each outcome's code, that only `Returned` is a success, what raises it and what
it records. -/
def Obligations.OutcomeTable : Prop :=
  (∀ o : RunOutcome, o.success = true ↔ o.code = some 0) ∧ RunOutcome.running.code = none ∧
  ∀ s t : State, s.outcome = .running → step s = .next t → t.outcome ≠ .running →
    (t.outcome = .returned ∧ t.outcome.code = some 0 ∧ s.mem.read s.pc.toNat = 0x60 ∧ s.depth = 0) ∨
    (t.outcome = .unsupportedOpcode (s.mem.read s.pc.toNat) s.pc ∧ t.outcome.code = some 1 ∧
      inExecSet (s.mem.read s.pc.toNat) = false) ∨
    (t.outcome = .budgetExceeded ∧ t.outcome.code = some 2 ∧ s.stepBudget ≤ s.steps) ∨
    ∃ a : Int, t.outcome = .addressSpaceViolation a s.pc ∧ t.outcome.code = some 3 ∧
      (a < 0 ∨ 65535 < a) ∧ -126 ≤ a ∧ a ≤ 0x100FE

/-- `raise` is precise (spec/60_exceptions.md R203, decision D20): a step either commits, and is counted, or raises, and then nothing
but `outcome` differs, except that `Returned` counts its RTS. -/
def Obligations.RaiseIsPrecise : Prop :=
  ∀ s t : State, s.outcome = .running → step s = .next t →
    (t.outcome = .running ∧ t.steps = s.steps + 1) ∨
    (t.outcome = .returned ∧ t = { s with outcome := .returned, steps := s.steps + 1 }) ∨
    (t.outcome ≠ .running ∧ t.outcome ≠ .returned ∧ t = { s with outcome := t.outcome })

/-- `Returned` (spec/60_exceptions.md R204, decision D8): raised by an RTS with no call of the run outstanding and by nothing else;
nothing is pulled, and `PC` stays at that RTS. -/
def Obligations.ReturnedIsTerminalRts : Prop :=
  (∀ s : State, Ready s → s.mem.read s.pc.toNat = 0x60 → s.depth = 0 →
    step s = .next { s with outcome := .returned, steps := s.steps + 1 }) ∧
  ∀ s t : State, s.outcome = .running → step s = .next t → t.outcome = .returned →
    s.mem.read s.pc.toNat = 0x60 ∧ s.depth = 0 ∧ t.sp = s.sp ∧ t.pc = s.pc ∧ t.mem = s.mem

/-- The complete list of causes of `AddressSpaceViolation` (spec/60_exceptions.md R207, decision D10), (a) to (f) in order. -/
def Obligations.ViolationCauses : Prop :=
  ∀ (s t : State) (a : Int) (p : Addr), s.outcome = .running → step s = .next t → t.outcome = .addressSpaceViolation a p →
    p = s.pc ∧ (a < 0 ∨ 65535 < a) ∧ inExecSet (s.mem.read s.pc.toNat) = true ∧
    ∃ d, opcodeTable (s.mem.read s.pc.toNat) = some d ∧
      ((2 ≤ d.size ∧ a = s.pc.toNat + 1) ∨ (d.size = 3 ∧ a = s.pc.toNat + 2) ∨
      ∃ i rest, decode s.fetchWindow = .instr i rest ∧ i.descriptor = d ∧
        ((∃ w, i.form = .mem (.absX w) ∧ a = w.toNat + s.x.toNat) ∨
        (∃ w, i.form = .mem (.absY w) ∧ a = w.toNat + s.y.toNat) ∨
        (∃ b : Byte, i.form = .mem (.indY b) ∧
          a = (s.mem.read ((b.toNat + 1) % 256)).toNat * 256 + (s.mem.read b.toNat).toNat + s.y.toNat) ∨
        (∃ b, i.form = .rel b ∧ Claims.branchTaken i s = true ∧ a = Claims.target s b) ∨
        (i = .rts ∧ 0 < s.depth ∧ a = 0x10000 ∧ Claims.returnTarget s = 0x10000) ∨
        (Claims.redirects i s = false ∧ a = s.pc.toNat + i.size)))

/-- Priority (spec/60_exceptions.md R208, decision D20): each cause is reported whatever the later ones would be, in the order budget,
opcode byte, operand byte, effective address, new `PC`. -/
def Obligations.OutcomePriority : Prop :=
  ∀ s : State, s.outcome = .running →
    (s.stepBudget ≤ s.steps → step s = .next (Claims.fatal s .budgetExceeded)) ∧
    (s.steps < s.stepBudget →
      (inExecSet (s.mem.read s.pc.toNat) = false →
        step s = .next (Claims.fatal s (.unsupportedOpcode (s.mem.read s.pc.toNat) s.pc))) ∧
      (∀ d, inExecSet (s.mem.read s.pc.toNat) = true → opcodeTable (s.mem.read s.pc.toNat) = some d →
        s.pc = 0xFFFF → 2 ≤ d.size → step s = .next (Claims.violation s 0x10000)) ∧
      (∀ d, inExecSet (s.mem.read s.pc.toNat) = true → opcodeTable (s.mem.read s.pc.toNat) = some d →
        s.pc = 0xFFFE → d.size = 3 → step s = .next (Claims.violation s 0x10000)) ∧
      (∀ i rest, inExecSet (s.mem.read s.pc.toNat) = true → decode s.fetchWindow = .instr i rest →
        (∀ r, i.form = .mem r → 65535 < effectiveAddress r s → step s = .next (Claims.violation s (effectiveAddress r s))) ∧
        (∀ b, i.form = .rel b → Claims.branchTaken i s = true → Claims.target s b < 0 ∨ 65535 < Claims.target s b →
          step s = .next (Claims.violation s (Claims.target s b))) ∧
        (i = .rts → s.depth = 0 → step s = .next { s with outcome := .returned, steps := s.steps + 1 }) ∧
        (i = .rts → 0 < s.depth → Claims.returnTarget s = 0x10000 → step s = .next (Claims.violation s 0x10000)) ∧
        (Claims.redirects i s = false → (∀ r, i.form = .mem r → effectiveAddress r s ≤ 65535) → 65535 < s.pc.toNat + i.size →
          step s = .next (Claims.violation s (s.pc.toNat + i.size)))))

/-! ### The address-mode resolver -/

/-- The zero-page modes (spec/20_memory.md R60, R61; decision D11): the sum stays in the zero page. -/
def Obligations.ZeroPageAddresses : Prop :=
  ∀ (b : Byte) (s : State),
    effectiveAddress (.zp b) s = b.toNat ∧
    effectiveAddress (.zpX b) s = (b.toNat + s.x.toNat) % 256 ∧
    effectiveAddress (.zpY b) s = (b.toNat + s.y.toNat) % 256 ∧
    (∀ r ∈ [MemRef.zp b, .zpX b, .zpY b], effectiveAddress r s ≤ 0x00FF) ∧
    (b = 0xF0 → s.x = 0x20 → effectiveAddress (.zpX b) s = 0x0010)

/-- The absolute modes (spec/20_memory.md R62, R63; decision D10): the sum does not wrap, and an address beyond 0xFFFF is raised by
every executed instruction in an indexed mode, with nothing committed. -/
def Obligations.AbsoluteAddresses : Prop :=
  (∀ (b1 b2 : Byte) (s : State),
    effectiveAddress (.abs (word16 b2 b1)) s = b2.toNat * 256 + b1.toNat ∧
    effectiveAddress (.absX (word16 b2 b1)) s = b2.toNat * 256 + b1.toNat + s.x.toNat ∧
    effectiveAddress (.absY (word16 b2 b1)) s = b2.toNat * 256 + b1.toNat + s.y.toNat ∧
    effectiveAddress (.absX (word16 b2 b1)) s ≤ 0x100FE ∧ effectiveAddress (.absY (word16 b2 b1)) s ≤ 0x100FE ∧
    decode [0x4C, b1, b2] = .instr (.jmpAbs (word16 b2 b1)) [] ∧ decode [0x20, b1, b2] = .instr (.jsr (word16 b2 b1)) []) ∧
  ∀ (i : Instr) (w : Addr) (s : State) (r : MemRef), (r = .absX w ∨ r = .absY w) → i.form = .mem r →
    s.pc.toNat + i.size ≤ 65536 → 65535 < effectiveAddress r s → exec i s = .next (Claims.violation s (effectiveAddress r s))

/-- The two indirect modes (spec/20_memory.md R64, R65; decisions D10 to D13): the pointer lies in the zero page, its low byte at
`p`, its high byte at `(p + 1) mod 256`; indexed-indirect cannot leave the address space; indirect-indexed can, and is then
raised with nothing committed. -/
def Obligations.IndirectAddresses : Prop :=
  (∀ (p b : Byte) (s : State),
    zpPointer p s = (s.mem.read ((p.toNat + 1) % 256)).toNat * 256 + (s.mem.read p.toNat).toNat ∧
    zpPointer 0xFF s = (s.mem.read 0x0000).toNat * 256 + (s.mem.read 0x00FF).toNat ∧
    (p.toNat = (b.toNat + s.x.toNat) % 256 → effectiveAddress (.indX b) s = zpPointer p s) ∧
    effectiveAddress (.indX b) s ≤ 0xFFFF ∧
    effectiveAddress (.indY b) s = zpPointer b s + s.y.toNat) ∧
  ∀ (i : Instr) (b : Byte) (s : State), i.form = .mem (.indY b) → s.pc.toNat + i.size ≤ 65536 →
    65535 < effectiveAddress (.indY b) s → exec i s = .next (Claims.violation s (effectiveAddress (.indY b) s))

/-- The relative mode (spec/20_memory.md R67; decision D10): the target is the integer `A + 2 + D`; outside the address space the
Decoder marks it invalid and the Executor raises where the branch is taken. -/
def Obligations.RelativeTarget : Prop :=
  ∀ (a : Addr) (b : Byte),
    -128 ≤ sext8 b ∧ sext8 b ≤ 127 ∧ sext8 b = b.toInt ∧
    branchTarget a b = (a.toNat : Int) + 2 + b.toInt ∧ -126 ≤ branchTarget a b ∧ branchTarget a b ≤ 65664 ∧
    (0 ≤ branchTarget a b ∧ branchTarget a b ≤ 65535 →
      recordTarget .relative a b 0 = .resolved (BitVec.ofInt 16 (branchTarget a b))) ∧
    (branchTarget a b < 0 ∨ 65535 < branchTarget a b → recordTarget .relative a b 0 = .invalid ∧
      ∀ (i : Instr) (s : State), s.pc = a → a ≠ 0xFFFF → i.form = .rel b → Claims.branchTaken i s = true →
        exec i s = .next (Claims.violation s (branchTarget a b)))

/-! ### Stack and flags -/

/-- Push, Pull and the wrap of the stack pointer (spec/10_state.md R27, R28, R29; decision D14). Neither has an outcome: each is a
function of the state. -/
def Obligations.StackDiscipline : Prop :=
  (∀ (s : State) (v : Byte), s.push v = { s with mem := s.mem.write (0x0100 + s.sp.toNat) v, sp := s.sp - 1 }) ∧
  (∀ s : State, s.pull = { s with sp := s.sp + 1 } ∧ s.pulled = s.mem.read (0x0100 + (s.sp + 1).toNat)) ∧
  (∀ (s : State) (v : Byte), s.mem.wf → (s.push v).pulled = v ∧ (s.push v).pull.sp = s.sp) ∧
  (∀ (s : State) (v : Byte), s.sp = 0x00 → (s.push v).mem = s.mem.write 0x0100 v ∧ (s.push v).sp = 0xFF) ∧
  ∀ s : State, s.sp = 0xFF → s.pull.sp = 0x00 ∧ s.pulled = s.mem.read 0x0100

/-- `SetNZ` (spec/10_state.md R32) and the packing of the flags into one byte (R35, decision D18). -/
def Obligations.FlagLaws : Prop :=
  (∀ (s : State) (v : Byte), s.setNZ v = { s with z := decide (v = 0), n := v.getLsbD 7 }) ∧
  (∀ s : State, ((s.setNZ 0x00).z, (s.setNZ 0x00).n) = (true, false) ∧ ((s.setNZ 0x80).z, (s.setNZ 0x80).n) = (false, true)) ∧
  ∀ s : State, s.packedFlags.getLsbD 7 = s.n ∧ s.packedFlags.getLsbD 1 = s.z ∧ s.packedFlags.getLsbD 0 = s.c ∧
    ∀ k, 2 ≤ k → k ≤ 6 → s.packedFlags.getLsbD k = false

/-- Which instructions write which flags (spec/10_state.md R34, which the spec marks as derived): every other instruction leaves them
as they are, and so does every instruction that raises. -/
def Obligations.FlagWriters : Prop :=
  ∀ (i : Instr) (s t : State), exec i s = .next t →
    (i.mnemonic ∉ [.lda, .ldx, .ldy, .tax, .tay, .txa, .tya, .tsx, .pla, .and, .ora, .eor, .inc, .dec, .inx, .iny, .dex, .dey,
        .adc, .sbc, .cmp, .cpx, .cpy, .asl, .lsr, .rol, .ror] ∨ t.outcome ≠ s.outcome → t.n = s.n ∧ t.z = s.z) ∧
    (i.mnemonic ∉ [.adc, .sbc, .cmp, .cpx, .cpy, .asl, .lsr, .rol, .ror, .clc, .sec] ∨ t.outcome ≠ s.outcome → t.c = s.c)

/-- Which instructions write which registers (spec/10_state.md R21, which the spec marks as derived; R26; R38): no other instruction
touches them. -/
def Obligations.RegisterWriters : Prop :=
  ∀ (i : Instr) (s t : State), exec i s = .next t →
    (i.mnemonic ∉ [.lda, .txa, .tya, .pla, .adc, .sbc, .and, .ora, .eor] ∧ i.mode ≠ .accumulator → t.a = s.a) ∧
    (i.mnemonic ∉ [.ldx, .tax, .tsx, .inx, .dex] → t.x = s.x) ∧
    (i.mnemonic ∉ [.ldy, .tay, .iny, .dey] → t.y = s.y) ∧
    (i.mnemonic ∉ [.pha, .pla, .jsr, .rts, .txs] → t.sp = s.sp) ∧
    (i.mnemonic ∉ [.jsr, .rts] → t.depth = s.depth) ∧
    t.stepBudget = s.stepBudget

/-- The frame of memory: an instruction changes no byte but those at the addresses it stores to, each computed by the expression its
meaning uses; a form that stores nothing changes no byte at all. The stack instructions store into the stack page. -/
def Obligations.MemoryFrame : Prop :=
  ∀ (i : Instr) (s t : State), exec i s = .next t →
    (∀ k, k ∉ storedAddresses i s → t.mem.read k = s.mem.read k) ∧
    (i.mnemonic ∈ [.pha, .jsr] → ∀ k ∈ storedAddresses i s, 0x0100 ≤ k ∧ k ≤ 0x01FF) ∧
    (i.mnemonic ∉ [.sta, .stx, .sty, .inc, .dec, .asl, .lsr, .rol, .ror, .pha, .jsr] ∨ i.mode = .accumulator → t.mem = s.mem)

/-- All 65536 bytes are plain storage: a read gives the last value written, a write changes that byte and nothing else, and every
access is idempotent (spec/20_memory.md R50, R58, R250); equal memories are equal data, and a write keeps the canonical
form. -/
def Obligations.MemoryIsPlainStorage : Prop :=
  ∀ m : Memory, m.wf → ∀ (k : Nat) (v : Byte), k < 65536 →
    (m.write k v).wf ∧ (m.write k v).read k = v ∧ (∀ j, j ≠ k → (m.write k v).read j = m.read j) ∧
    (m.write k v).write k v = m.write k v ∧ m.write k (m.read k) = m ∧
    ∀ m' : Memory, m'.wf → (∀ j, j < 65536 → m'.read j = m.read j) → m' = m

/-- What `PC` becomes (spec/10_state.md R24, R25; decision D10): every committed instruction advances by its size, except the four
kinds that redirect; where an advance would leave the address space the step raises and commits nothing. -/
def Obligations.AdvanceOrRedirect : Prop :=
  (∀ (i : Instr) (s t : State), s.outcome = .running → exec i s = .next t → t.outcome = .running →
    (Claims.redirects i s = false → t.pc.toNat = s.pc.toNat + i.size) ∧
    (∀ w, i = .jmpAbs w ∨ i = .jsr w → t.pc = w) ∧
    (∀ b, i.form = .rel b → Claims.branchTaken i s = true → (t.pc.toNat : Int) = Claims.target s b) ∧
    (i = .rts → t.pc.toNat = Claims.returnTarget s)) ∧
  ∀ (i : Instr) (s : State), inExecSet i.opcode = true → Claims.redirects i s = false →
    (∀ r, i.form = .mem r → effectiveAddress r s ≤ 65535) → s.pc.toNat + i.size = 65536 →
    exec i s = .next (Claims.violation s (s.pc.toNat + i.size))

/-- `steps` (spec/10_state.md R37, decision D9): 0 at launch, one more at each commit, compared before each fetch, and read by no
instruction, nor is the budget. -/
def Obligations.StepsCounter : Prop :=
  (∀ (li : LaunchInputs) (s : State), launch li = some s → s.steps = 0) ∧
  (∀ s t : State, s.outcome = .running → step s = .next t → t.outcome = .running → t.steps = s.steps + 1) ∧
  (∀ s : State, s.outcome = .running → s.stepBudget ≤ s.steps → step s = .next (Claims.fatal s .budgetExceeded)) ∧
  ∀ (i : Instr) (s t : State) (n b : Nat), exec i s = .next t →
    exec i { s with steps := n, stepBudget := b } = .next { t with steps := n + (t.steps - s.steps), stepBudget := b }

/-- `depth` (spec/10_state.md R38, decision D8): 0 at launch, one more at each JSR, one less at each RTS with a call outstanding; an
RTS with none ends the run; no other instruction touches or reads it. -/
def Obligations.DepthCounter : Prop :=
  (∀ (li : LaunchInputs) (s : State), launch li = some s → s.depth = 0) ∧
  (∀ (w : Addr) (s t : State), s.outcome = .running → exec (.jsr w) s = .next t → t.outcome = .running →
    t.depth = s.depth + 1) ∧
  (∀ s t : State, s.outcome = .running → exec .rts s = .next t → t.outcome = .running → t.depth + 1 = s.depth) ∧
  (∀ s : State, s.depth = 0 → exec .rts s = .next { s with outcome := .returned, steps := s.steps + 1 }) ∧
  ∀ (i : Instr) (s t : State) (d : Nat), i.mnemonic ∉ [.jsr, .rts] → exec i s = .next t →
    t.depth = s.depth ∧ exec i { s with depth := d } = .next { t with depth := d }

/-! ### Launch, reset and whole runs -/

/-- The state at the start of a run (spec/10_state.md R43; spec/70_reset_and_hazards.md R238; decisions D6, D7, D8, D9) and what the
host reads at its end (spec/70_reset_and_hazards.md R231): `steps` and `depth` are no outputs. -/
def Obligations.RunInputsAndOutputs : Prop :=
  (∀ (li : LaunchInputs) (s : State), launch li = some s →
    (s.a, s.x, s.y, s.sp) = (li.a0, li.x0, li.y0, li.sp0) ∧ s.pc.toNat = li.start ∧
    (s.n, s.z, s.c) = (li.n0, li.z0, li.c0) ∧ s.mem = li.mem0 ∧
    s.steps = 0 ∧ s.depth = 0 ∧ s.outcome = .running ∧ s.stepBudget = li.stepBudget) ∧
  ∀ s : State,
    (s.outcome = .running → s.result = none) ∧
    (s.outcome ≠ .running → s.result = some ⟨s.a, s.x, s.y, s.sp, s.pc, s.n, s.z, s.c, s.mem, s.outcome⟩)

/-- `MEM0` (spec/70_reset_and_hazards.md R233, decisions D5 and D7): the code, which wins an overlap; then a snapshot assignment; then
the fill, any total function from address to byte. Two assignments of different bytes to one address are left out: the spec
does not order them (log entry 11). -/
def Obligations.LaunchMemory : Prop :=
  (∀ (li : LaunchInputs) (s : State), launch li = some s →
    (li.loadAddress = none → li.loadAt = li.start) ∧ (∀ a, li.loadAddress = some a → li.loadAt = a) ∧
    li.loadAt + li.code.length ≤ 65536 ∧
    (∀ j v, li.code[j]? = some v → (s.mem.read (li.loadAt + j)).toNat = v) ∧
    (∀ k v, k < li.loadAt ∨ li.loadAt + li.code.length ≤ k → (k, v) ∈ li.snapshot →
      (∀ v', (k, v') ∈ li.snapshot → v' = v) → (s.mem.read k).toNat = v) ∧
    (∀ k, k < li.loadAt ∨ li.loadAt + li.code.length ≤ k → (∀ v, (k, v) ∉ li.snapshot) → s.mem.read k = li.fill.read k)) ∧
  (∀ f : Nat → Byte, ∃ m : Memory, m.wf ∧ ∀ k, k < 65536 → m.read k = f k) ∧
  ∀ k, Memory.read [] k = 0x00

/-- Host errors (spec/60_exceptions.md R221, decision D23): an argument outside the address space is refused and no state is produced;
arguments inside it launch. -/
def Obligations.HostErrorsRefused : Prop :=
  (∀ li : LaunchInputs, 65536 ≤ li.start → launch li = none) ∧
  (∀ (li : LaunchInputs) (p : Nat × Nat), p ∈ li.snapshot → 65536 ≤ p.1 ∨ 256 ≤ p.2 → launch li = none) ∧
  (∀ li : LaunchInputs, 65536 < li.loadAt + li.code.length → launch li = none) ∧
  (∀ (buf : List Byte) (start : Nat), 65536 < start + buf.length → decodeBuffer buf start = none) ∧
  ∀ li : LaunchInputs, li.start < 65536 → (∀ p ∈ li.snapshot, p.1 < 65536 ∧ p.2 < 256) → (∀ v ∈ li.code, v < 256) →
    li.loadAt + li.code.length ≤ 65536 → li.fill.wf → ∃ s, launch li = some s

/-- The reset state of the model is one launch state, the one the spec's vectors call the baseline: THE MODEL'S CHOICE, log entries 2
to 5 (spec/10_state.md R43 and spec/70_reset_and_hazards.md R237 give no default for any of these values). -/
def Obligations.ResetIsBaselineLaunch : Prop :=
  (State.reset.a, State.reset.x, State.reset.y, State.reset.sp, State.reset.pc) = (0x00, 0x00, 0x00, 0xFF, 0x8000) ∧
  (State.reset.n, State.reset.z, State.reset.c) = (false, false, false) ∧ State.reset.mem = [] ∧
  (State.reset.steps, State.reset.depth, State.reset.outcome, State.reset.stepBudget) = (0, 0, .running, 100) ∧
  launch { start := 0x8000, stepBudget := 100, a0 := 0x00, x0 := 0x00, y0 := 0x00, sp0 := 0xFF, n0 := false, z0 := false
           c0 := false, fill := [], snapshot := [], code := [], loadAddress := none } = some State.reset

/-- The invariant holds right after reset. -/
def Obligations.InvAtReset : Prop := State.reset.Inv

/-- The invariant holds at every launch, with any inputs the launch admits. -/
def Obligations.InvAtLaunch : Prop := ∀ (li : LaunchInputs) (s : State), launch li = some s → s.Inv

/-- Every step keeps the invariant: memory stays in canonical form, at most `STEP_BUDGET` instructions have committed, no more calls
are outstanding than instructions committed, and a recorded outcome fits the state it was raised in. -/
def Obligations.StepKeepsInv : Prop := ∀ s t : State, s.Inv → step s = .next t → t.Inv

/-- Every run ends, with at most `STEP_BUDGET` instructions, and the host then reads its result (spec/60_exceptions.md R222 and
spec/70_reset_and_hazards.md R247, which the spec marks as derived). -/
def Obligations.EveryRunEnds : Prop :=
  (∀ s : State, (State.after s.stepsToEnd s).outcome ≠ .running) ∧
  ∀ (li : LaunchInputs) (s : State), launch li = some s →
    (State.after s.stepsToEnd s).steps ≤ li.stepBudget ∧
    ∃ r, runFrom li = some r ∧ (State.after s.stepsToEnd s).result = some r

/-- A store is seen by the next fetch with no fence (spec/20_memory.md R253, which the spec marks as derived): the store executes as it
was fetched, and the bytes the next step fetches are the stored one where it lies and the old ones elsewhere. -/
def Obligations.StoreIntoCode : Prop :=
  ∀ (s t : State) (i : Instr) (rest : List Byte) (r : MemRef) (v : Byte), s.mem.wf → Ready s →
    decode s.fetchWindow = .instr i rest → i.form = .mem r →
    i.mnemonic = .sta ∧ v = s.a ∨ i.mnemonic = .stx ∧ v = s.x ∨ i.mnemonic = .sty ∧ v = s.y →
    step s = .next t → t.outcome = .running →
    ∀ k, k < 3 → t.pc.toNat + k ≤ 65535 →
      t.fetchWindow[k]? = some (if effectiveAddress r s = t.pc.toNat + k then v else s.mem.read (t.pc.toNat + k))

/-- The subroutine law (spec/43_branch_jump_call.md R160, which the spec marks as derived): a call followed at once by a return resumes
at the address after the call, with `SP` and `depth` as before it; where there is no address after the call, the return
raises. -/
def Obligations.CallThenReturn : Prop :=
  ∀ (w : Addr) (s : State), s.mem.wf → s.pc.toNat + 2 ≤ 65535 →
    ∃ t, exec (.jsr w) s = .next t ∧ t.pc = w ∧ t.sp = s.sp - 2 ∧
      (s.pc.toNat + 3 ≤ 65535 →
        exec .rts t = .next { t with pc := s.pc + 3, sp := s.sp, depth := s.depth, steps := s.steps + 2 }) ∧
      (s.pc.toNat + 3 = 65536 → exec .rts t = .next (Claims.violation t 0x10000))

/-! ### Load, store, transfer -/

/-- LDA, LDX, LDY (spec/40_load_store_transfer.md R100, R101, R102; decisions D2, D3, D17): the register and `N`, `Z` from the operand
byte, all else unchanged. -/
def Obligations.Loads : Prop :=
  Claims.Encodings .lda
    [(0xA1, .indexedIndirect, 2, .c), (0xA5, .zeroPage, 2, .c), (0xA9, .immediate, 2, .s), (0xAD, .absolute, 3, .c),
     (0xB1, .indirectIndexed, 2, .c), (0xB5, .zeroPageX, 2, .c), (0xB9, .absoluteY, 3, .c), (0xBD, .absoluteX, 3, .c)] ∧
  Claims.Encodings .ldx
    [(0xA2, .immediate, 2, .g), (0xA6, .zeroPage, 2, .g), (0xAE, .absolute, 3, .g), (0xB6, .zeroPageY, 2, .g),
     (0xBE, .absoluteY, 3, .g)] ∧
  Claims.Encodings .ldy
    [(0xA0, .immediate, 2, .g), (0xA4, .zeroPage, 2, .g), (0xAC, .absolute, 3, .g), (0xB4, .zeroPageX, 2, .g),
     (0xBC, .absoluteX, 3, .g)] ∧
  (∀ (i : Instr) (s : State) (src : Source) (m : Byte), i.form.source? = some src → operandValue src s = some m →
    CanAdvance i.size s →
    (i.mnemonic = .lda → exec i s = .next { s with
      a := m, n := m.getLsbD 7, z := decide (m = 0), pc := Claims.nextPc i s, steps := s.steps + 1 }) ∧
    (i.mnemonic = .ldx → exec i s = .next { s with
      x := m, n := m.getLsbD 7, z := decide (m = 0), pc := Claims.nextPc i s, steps := s.steps + 1 }) ∧
    (i.mnemonic = .ldy → exec i s = .next { s with
      y := m, n := m.getLsbD 7, z := decide (m = 0), pc := Claims.nextPc i s, steps := s.steps + 1 })) ∧
  ∀ i : Instr, i.mnemonic ∈ [.lda, .ldx, .ldy] → (∃ src, i.form.source? = some src) ∧ Claims.CommonOutcomes i

/-- STA, STX, STY (spec/40_load_store_transfer.md R103, R104, R105; decisions D2, D3, D11): the byte at the effective address, no
flag, no register; there is no immediate form. -/
def Obligations.Stores : Prop :=
  Claims.Encodings .sta
    [(0x81, .indexedIndirect, 2, .c), (0x85, .zeroPage, 2, .s), (0x8D, .absolute, 3, .s), (0x91, .indirectIndexed, 2, .c),
     (0x95, .zeroPageX, 2, .c), (0x99, .absoluteY, 3, .c), (0x9D, .absoluteX, 3, .c)] ∧
  Claims.Encodings .stx
    [(0x86, .zeroPage, 2, .g), (0x8E, .absolute, 3, .g), (0x96, .zeroPageY, 2, .g)] ∧
  Claims.Encodings .sty
    [(0x84, .zeroPage, 2, .g), (0x8C, .absolute, 3, .g), (0x94, .zeroPageX, 2, .g)] ∧
  (∀ (i : Instr) (s : State) (r : MemRef), i.form = .mem r → effectiveAddress r s ≤ 65535 → CanAdvance i.size s →
    (i.mnemonic = .sta → exec i s = .next { s with
      mem := s.mem.write (effectiveAddress r s) s.a, pc := Claims.nextPc i s, steps := s.steps + 1 }) ∧
    (i.mnemonic = .stx → exec i s = .next { s with
      mem := s.mem.write (effectiveAddress r s) s.x, pc := Claims.nextPc i s, steps := s.steps + 1 }) ∧
    (i.mnemonic = .sty → exec i s = .next { s with
      mem := s.mem.write (effectiveAddress r s) s.y, pc := Claims.nextPc i s, steps := s.steps + 1 })) ∧
  ∀ i : Instr, i.mnemonic ∈ [.sta, .stx, .sty] → (∃ r, i.form = .mem r) ∧ Claims.CommonOutcomes i

/-- TAX, TAY, TXA, TYA, TSX, which set `N` and `Z` from the byte moved, and TXS, which writes no flag and leaves `depth`
(spec/40_load_store_transfer.md R106 to R111; decisions D2, D3, D17). -/
def Obligations.Transfers : Prop :=
  Claims.Encodings .tax
    [(0xAA, .implied, 1, .g)] ∧
  Claims.Encodings .tay
    [(0xA8, .implied, 1, .g)] ∧
  Claims.Encodings .txa
    [(0x8A, .implied, 1, .g)] ∧
  Claims.Encodings .tya
    [(0x98, .implied, 1, .g)] ∧
  Claims.Encodings .tsx
    [(0xBA, .implied, 1, .g)] ∧
  Claims.Encodings .txs
    [(0x9A, .implied, 1, .g)] ∧
  (∀ s : State, s.pc ≠ 0xFFFF →
    exec .tax s = .next { s with
      x := s.a, n := s.a.getLsbD 7, z := decide (s.a = 0), pc := s.pc + 1, steps := s.steps + 1 } ∧
    exec .tay s = .next { s with
      y := s.a, n := s.a.getLsbD 7, z := decide (s.a = 0), pc := s.pc + 1, steps := s.steps + 1 } ∧
    exec .txa s = .next { s with
      a := s.x, n := s.x.getLsbD 7, z := decide (s.x = 0), pc := s.pc + 1, steps := s.steps + 1 } ∧
    exec .tya s = .next { s with
      a := s.y, n := s.y.getLsbD 7, z := decide (s.y = 0), pc := s.pc + 1, steps := s.steps + 1 } ∧
    exec .tsx s = .next { s with
      x := s.sp, n := s.sp.getLsbD 7, z := decide (s.sp = 0), pc := s.pc + 1, steps := s.steps + 1 } ∧
    exec .txs s = .next { s with sp := s.x, pc := s.pc + 1, steps := s.steps + 1 }) ∧
  ∀ i ∈ [Instr.tax, .tay, .txa, .tya, .tsx, .txs], Claims.FailsAtTop i

/-! ### Arithmetic and comparison -/

/-- ADC (spec/41_arithmetic_compare.md R120; decisions D2, D15): `t = A + M + C` as an integer, `A` its low byte, `C` set when
`t > 255`. -/
def Obligations.AddWithCarry : Prop :=
  Claims.Encodings .adc
    [(0x61, .indexedIndirect, 2, .c), (0x65, .zeroPage, 2, .c), (0x69, .immediate, 2, .c), (0x6D, .absolute, 3, .c),
     (0x71, .indirectIndexed, 2, .c), (0x75, .zeroPageX, 2, .c), (0x79, .absoluteY, 3, .c), (0x7D, .absoluteX, 3, .c)] ∧
  (∀ (i : Instr) (s : State) (src : Source) (m : Byte) (t : Nat), i.mnemonic = .adc → i.form.source? = some src →
    operandValue src s = some m → CanAdvance i.size s → t = s.a.toNat + m.toNat + s.c.toNat →
    t ≤ 511 ∧ exec i s = .next { s with
      a := BitVec.ofNat 8 t, c := decide (255 < t), n := (BitVec.ofNat 8 t).getLsbD 7, z := decide (t % 256 = 0)
      pc := Claims.nextPc i s, steps := s.steps + 1 }) ∧
  ∀ i : Instr, i.mnemonic = .adc → (∃ src, i.form.source? = some src) ∧ Claims.CommonOutcomes i

/-- SBC (spec/41_arithmetic_compare.md R121; decisions D2, D15): `t = A - M - (1 - C)` as an integer, `A` its non-negative remainder,
`C` set when there is no borrow; the same as adding the complement. -/
def Obligations.SubtractWithBorrow : Prop :=
  Claims.Encodings .sbc
    [(0xE1, .indexedIndirect, 2, .c), (0xE5, .zeroPage, 2, .c), (0xE9, .immediate, 2, .c), (0xED, .absolute, 3, .c),
     (0xF1, .indirectIndexed, 2, .c), (0xF5, .zeroPageX, 2, .c), (0xF9, .absoluteY, 3, .c), (0xFD, .absoluteX, 3, .c)] ∧
  (∀ (i : Instr) (s : State) (src : Source) (m : Byte) (t : Int) (u : Nat), i.mnemonic = .sbc → i.form.source? = some src →
    operandValue src s = some m → CanAdvance i.size s →
    t = (s.a.toNat : Int) - m.toNat - (1 - s.c.toNat) → u = s.a.toNat + (255 - m.toNat) + s.c.toNat →
    -256 ≤ t ∧ t ≤ 255 ∧ (0 ≤ t ↔ 255 < u) ∧ BitVec.ofInt 8 t = BitVec.ofNat 8 u ∧
    exec i s = .next { s with
      a := BitVec.ofInt 8 t, c := decide (0 ≤ t), n := (BitVec.ofInt 8 t).getLsbD 7, z := decide (t % 256 = 0)
      pc := Claims.nextPc i s, steps := s.steps + 1 }) ∧
  ∀ i : Instr, i.mnemonic = .sbc → (∃ src, i.form.source? = some src) ∧ Claims.CommonOutcomes i

/-- CMP, CPX, CPY (spec/41_arithmetic_compare.md R122, R123, R124; decision D2): `C` when the register is not below the operand, `Z`
when they are equal, `N` bit 7 of the difference; the carry is no input, and no register and no byte is written. -/
def Obligations.Compares : Prop :=
  Claims.Encodings .cmp
    [(0xC1, .indexedIndirect, 2, .c), (0xC5, .zeroPage, 2, .c), (0xC9, .immediate, 2, .c), (0xCD, .absolute, 3, .c),
     (0xD1, .indirectIndexed, 2, .c), (0xD5, .zeroPageX, 2, .c), (0xD9, .absoluteY, 3, .c), (0xDD, .absoluteX, 3, .c)] ∧
  Claims.Encodings .cpx
    [(0xE0, .immediate, 2, .c), (0xE4, .zeroPage, 2, .c), (0xEC, .absolute, 3, .c)] ∧
  Claims.Encodings .cpy
    [(0xC0, .immediate, 2, .c), (0xC4, .zeroPage, 2, .c), (0xCC, .absolute, 3, .c)] ∧
  (∀ (i : Instr) (s : State) (src : Source) (m : Byte), i.form.source? = some src → operandValue src s = some m →
    CanAdvance i.size s →
    (i.mnemonic = .cmp → exec i s = .next { s with
      c := decide (m.toNat ≤ s.a.toNat), z := decide (s.a = m), n := (s.a - m).getLsbD 7
      pc := Claims.nextPc i s, steps := s.steps + 1 }) ∧
    (i.mnemonic = .cpx → exec i s = .next { s with
      c := decide (m.toNat ≤ s.x.toNat), z := decide (s.x = m), n := (s.x - m).getLsbD 7
      pc := Claims.nextPc i s, steps := s.steps + 1 }) ∧
    (i.mnemonic = .cpy → exec i s = .next { s with
      c := decide (m.toNat ≤ s.y.toNat), z := decide (s.y = m), n := (s.y - m).getLsbD 7
      pc := Claims.nextPc i s, steps := s.steps + 1 })) ∧
  ∀ i : Instr, i.mnemonic ∈ [.cmp, .cpx, .cpy] → (∃ src, i.form.source? = some src) ∧ Claims.CommonOutcomes i

/-- INC and DEC of a byte in memory (spec/41_arithmetic_compare.md R125, R126; decisions D2, D3, D17, D27): modulo 256, `N` and `Z` from
the new byte, `C` unchanged. -/
def Obligations.MemoryIncrementDecrement : Prop :=
  Claims.Encodings .inc
    [(0xE6, .zeroPage, 2, .g), (0xEE, .absolute, 3, .g), (0xF6, .zeroPageX, 2, .g), (0xFE, .absoluteX, 3, .g)] ∧
  Claims.Encodings .dec
    [(0xC6, .zeroPage, 2, .g), (0xCE, .absolute, 3, .g), (0xD6, .zeroPageX, 2, .g), (0xDE, .absoluteX, 3, .g)] ∧
  (∀ (i : Instr) (s : State) (r : MemRef) (v : Byte), i.form = .mem r → effectiveAddress r s ≤ 65535 → CanAdvance i.size s →
    i.mnemonic = .inc ∧ v = s.mem.read (effectiveAddress r s) + 1 ∨
      i.mnemonic = .dec ∧ v = s.mem.read (effectiveAddress r s) - 1 →
    exec i s = .next { s with
      mem := s.mem.write (effectiveAddress r s) v, n := v.getLsbD 7, z := decide (v = 0)
      pc := Claims.nextPc i s, steps := s.steps + 1 }) ∧
  ∀ i : Instr, i.mnemonic ∈ [.inc, .dec] → (∃ r, i.form = .mem r) ∧ Claims.CommonOutcomes i

/-- INX, INY, DEX, DEY (spec/41_arithmetic_compare.md R127 to R130; decisions D2, D3, D17). -/
def Obligations.RegisterIncrementDecrement : Prop :=
  Claims.Encodings .inx
    [(0xE8, .implied, 1, .g)] ∧
  Claims.Encodings .iny
    [(0xC8, .implied, 1, .g)] ∧
  Claims.Encodings .dex
    [(0xCA, .implied, 1, .g)] ∧
  Claims.Encodings .dey
    [(0x88, .implied, 1, .g)] ∧
  (∀ s : State, s.pc ≠ 0xFFFF →
    exec .inx s = .next { s with
      x := s.x + 1, n := (s.x + 1).getLsbD 7, z := decide (s.x + 1 = 0), pc := s.pc + 1, steps := s.steps + 1 } ∧
    exec .iny s = .next { s with
      y := s.y + 1, n := (s.y + 1).getLsbD 7, z := decide (s.y + 1 = 0), pc := s.pc + 1, steps := s.steps + 1 } ∧
    exec .dex s = .next { s with
      x := s.x - 1, n := (s.x - 1).getLsbD 7, z := decide (s.x - 1 = 0), pc := s.pc + 1, steps := s.steps + 1 } ∧
    exec .dey s = .next { s with
      y := s.y - 1, n := (s.y - 1).getLsbD 7, z := decide (s.y - 1 = 0), pc := s.pc + 1, steps := s.steps + 1 }) ∧
  ∀ i ∈ [Instr.inx, .iny, .dex, .dey], Claims.FailsAtTop i

/-! ### Logic, shifts, rotates -/

/-- AND, ORA, EOR (spec/42_logic_shift_rotate.md R140, R141, R142; decisions D2, D3, D17). -/
def Obligations.LogicOperations : Prop :=
  Claims.Encodings .and
    [(0x21, .indexedIndirect, 2, .g), (0x25, .zeroPage, 2, .g), (0x29, .immediate, 2, .g), (0x2D, .absolute, 3, .g),
     (0x31, .indirectIndexed, 2, .g), (0x35, .zeroPageX, 2, .g), (0x39, .absoluteY, 3, .g), (0x3D, .absoluteX, 3, .g)] ∧
  Claims.Encodings .ora
    [(0x01, .indexedIndirect, 2, .g), (0x05, .zeroPage, 2, .g), (0x09, .immediate, 2, .g), (0x0D, .absolute, 3, .g),
     (0x11, .indirectIndexed, 2, .g), (0x15, .zeroPageX, 2, .g), (0x19, .absoluteY, 3, .g), (0x1D, .absoluteX, 3, .g)] ∧
  Claims.Encodings .eor
    [(0x41, .indexedIndirect, 2, .g), (0x45, .zeroPage, 2, .g), (0x49, .immediate, 2, .g), (0x4D, .absolute, 3, .g),
     (0x51, .indirectIndexed, 2, .g), (0x55, .zeroPageX, 2, .g), (0x59, .absoluteY, 3, .g), (0x5D, .absoluteX, 3, .g)] ∧
  (∀ (i : Instr) (s : State) (src : Source) (m v : Byte), i.form.source? = some src → operandValue src s = some m →
    CanAdvance i.size s →
    i.mnemonic = .and ∧ v = s.a &&& m ∨ i.mnemonic = .ora ∧ v = s.a ||| m ∨ i.mnemonic = .eor ∧ v = s.a ^^^ m →
    exec i s = .next { s with
      a := v, n := v.getLsbD 7, z := decide (v = 0), pc := Claims.nextPc i s, steps := s.steps + 1 }) ∧
  ∀ i : Instr, i.mnemonic ∈ [.and, .ora, .eor] → (∃ src, i.form.source? = some src) ∧ Claims.CommonOutcomes i

/-- ASL and LSR, the accumulator form and the memory forms (spec/42_logic_shift_rotate.md R143, R144; decisions D2, D16, D27): one bit
leaves the byte and becomes `C`, a 0 enters, the old `C` is not used. -/
def Obligations.Shifts : Prop :=
  Claims.Encodings .asl
    [(0x06, .zeroPage, 2, .c), (0x0A, .accumulator, 1, .c), (0x0E, .absolute, 3, .c), (0x16, .zeroPageX, 2, .c),
     (0x1E, .absoluteX, 3, .c)] ∧
  Claims.Encodings .lsr
    [(0x46, .zeroPage, 2, .c), (0x4A, .accumulator, 1, .c), (0x4E, .absolute, 3, .c), (0x56, .zeroPageX, 2, .c),
     (0x5E, .absoluteX, 3, .c)] ∧
  (∀ (s : State) (i : Instr) (r : Byte) (c : Bool), s.pc ≠ 0xFFFF →
    i = .aslAcc ∧ r = s.a <<< 1 ∧ c = s.a.getLsbD 7 ∨ i = .lsrAcc ∧ r = s.a >>> 1 ∧ c = s.a.getLsbD 0 →
    exec i s = .next { s with
      a := r, c := c, n := r.getLsbD 7, z := decide (r = 0), pc := s.pc + 1, steps := s.steps + 1 }) ∧
  (∀ (i : Instr) (s : State) (ea : Nat) (v r : Byte) (c : Bool), Claims.memByte i s = some (ea, v) → CanAdvance i.size s →
    i.mnemonic = .asl ∧ r = v <<< 1 ∧ c = v.getLsbD 7 ∨ i.mnemonic = .lsr ∧ r = v >>> 1 ∧ c = v.getLsbD 0 →
    exec i s = .next { s with
      mem := s.mem.write ea r, c := c, n := r.getLsbD 7, z := decide (r = 0)
      pc := Claims.nextPc i s, steps := s.steps + 1 }) ∧
  (∀ i : Instr, i.mnemonic ∈ [.asl, .lsr] → Claims.CommonOutcomes i) ∧
  ∀ v : Byte, (v <<< 1).toNat = v.toNat * 2 % 256 ∧ (v >>> 1).toNat = v.toNat / 2 ∧ (v >>> 1).getLsbD 7 = false

/-- ROL and ROR, the accumulator form and the memory forms (spec/42_logic_shift_rotate.md R145, R146; decisions D2, D16, D27): over nine
bits, the byte and the carry; nine rotations restore both. -/
def Obligations.Rotates : Prop :=
  Claims.Encodings .rol
    [(0x26, .zeroPage, 2, .c), (0x2A, .accumulator, 1, .c), (0x2E, .absolute, 3, .c), (0x36, .zeroPageX, 2, .c),
     (0x3E, .absoluteX, 3, .c)] ∧
  Claims.Encodings .ror
    [(0x66, .zeroPage, 2, .c), (0x6A, .accumulator, 1, .c), (0x6E, .absolute, 3, .c), (0x76, .zeroPageX, 2, .c),
     (0x7E, .absoluteX, 3, .c)] ∧
  (∀ (s : State) (i : Instr) (p : Byte × Bool), s.pc ≠ 0xFFFF →
    i = .rolAcc ∧ p = Claims.rolPair (s.a, s.c) ∨ i = .rorAcc ∧ p = Claims.rorPair (s.a, s.c) →
    exec i s = .next { s with
      a := p.1, c := p.2, n := p.1.getLsbD 7, z := decide (p.1 = 0), pc := s.pc + 1, steps := s.steps + 1 }) ∧
  (∀ (i : Instr) (s : State) (ea : Nat) (v : Byte) (p : Byte × Bool), Claims.memByte i s = some (ea, v) → CanAdvance i.size s →
    i.mnemonic = .rol ∧ p = Claims.rolPair (v, s.c) ∨ i.mnemonic = .ror ∧ p = Claims.rorPair (v, s.c) →
    exec i s = .next { s with
      mem := s.mem.write ea p.1, c := p.2, n := p.1.getLsbD 7, z := decide (p.1 = 0)
      pc := Claims.nextPc i s, steps := s.steps + 1 }) ∧
  (∀ i : Instr, i.mnemonic ∈ [.rol, .ror] → Claims.CommonOutcomes i) ∧
  ∀ (v : Byte) (c : Bool),
    (Claims.rolPair (v, c)).1.toNat = v.toNat * 2 % 256 + c.toNat ∧ (Claims.rolPair (v, c)).2 = v.getLsbD 7 ∧
    (Claims.rorPair (v, c)).1.toNat = v.toNat / 2 + 128 * c.toNat ∧ (Claims.rorPair (v, c)).2 = v.getLsbD 0 ∧
    Claims.rolPair^[9] (v, c) = (v, c) ∧ Claims.rorPair^[9] (v, c) = (v, c)

/-! ### Control flow -/

/-- The six branches (spec/43_branch_jump_call.md R150 to R156; decisions D2, D10): each tests one flag; where taken `PC` becomes
`PC + 2 + D`, else it advances; no flag, register or byte is written. -/
def Obligations.ConditionalBranches : Prop :=
  Claims.Encodings .bcc
    [(0x90, .relative, 2, .c)] ∧
  Claims.Encodings .bcs
    [(0xB0, .relative, 2, .c)] ∧
  Claims.Encodings .beq
    [(0xF0, .relative, 2, .c)] ∧
  Claims.Encodings .bne
    [(0xD0, .relative, 2, .c)] ∧
  Claims.Encodings .bmi
    [(0x30, .relative, 2, .c)] ∧
  Claims.Encodings .bpl
    [(0x10, .relative, 2, .c)] ∧
  ∀ b : Byte,
    Claims.Branches (.bcc b) b (fun s => s.c == false) ∧ Claims.Branches (.bcs b) b (fun s => s.c == true) ∧
    Claims.Branches (.beq b) b (fun s => s.z == true) ∧ Claims.Branches (.bne b) b (fun s => s.z == false) ∧
    Claims.Branches (.bmi b) b (fun s => s.n == true) ∧ Claims.Branches (.bpl b) b (fun s => s.n == false)

/-- JMP absolute and JSR (spec/43_branch_jump_call.md R157, R158; decisions D2, D8, D14): the jump; the call, which pushes the address
of its last byte, `PC + 2`, high byte first, and counts itself. -/
def Obligations.JumpAndCall : Prop :=
  (∀ b1 b2 : Byte, decode [0x4C, b1, b2] = .instr (.jmpAbs (BitVec.ofNat 16 (b2.toNat * 256 + b1.toNat))) [] ∧
    decode [0x20, b1, b2] = .instr (.jsr (BitVec.ofNat 16 (b2.toNat * 256 + b1.toNat))) []) ∧
  (∀ w : Addr, (Instr.jmpAbs w).descriptor = ⟨.jmp, 3, .absolute⟩ ∧ (Instr.jmpAbs w).opcode = 0x4C) ∧
  Claims.Encodings .jsr
    [(0x20, .absolute, 3, .c)] ∧
  (∀ (w : Addr) (s : State), s.pc.toNat + 2 ≤ 65535 →
    exec (.jmpAbs w) s = .next { s with pc := w, steps := s.steps + 1 }) ∧
  (∀ (w : Addr) (s : State) (hi lo : Byte), s.pc.toNat + 2 ≤ 65535 →
    hi.toNat = (s.pc.toNat + 2) / 256 → lo.toNat = (s.pc.toNat + 2) % 256 →
    exec (.jsr w) s = .next { s with
      mem := (s.mem.write (0x0100 + s.sp.toNat) hi).write (0x0100 + (s.sp - 1).toNat) lo
      sp := s.sp - 2, pc := w, depth := s.depth + 1, steps := s.steps + 1 }) ∧
  ∀ (w : Addr) (s : State), 65535 < s.pc.toNat + 2 →
    exec (.jmpAbs w) s = .next (Claims.violation s 0x10000) ∧ exec (.jsr w) s = .next (Claims.violation s 0x10000)

/-- RTS (spec/43_branch_jump_call.md R159; decisions D8, D14): with no call outstanding the run ends and nothing is pulled; else the low
byte, then the high byte, and on at that address plus one; a pulled 0xFFFF is raised with nothing changed. -/
def Obligations.SubroutineReturn : Prop :=
  Claims.Encodings .rts
    [(0x60, .implied, 1, .s)] ∧
  (∀ s : State, s.depth = 0 → exec .rts s = .next { s with outcome := .returned, steps := s.steps + 1 }) ∧
  (∀ s : State, 0 < s.depth → Claims.returnTarget s ≤ 65535 →
    exec .rts s = .next { s with
      sp := s.sp + 2, pc := BitVec.ofNat 16 (Claims.returnTarget s), depth := s.depth - 1, steps := s.steps + 1 }) ∧
  ∀ s : State, 0 < s.depth → 65535 < Claims.returnTarget s →
    exec .rts s = .next (Claims.violation s 0x10000) ∧ Claims.returnTarget s = 0x10000

/-! ### Stack, carry flag, no operation -/

/-- PHA, PLA, CLC, SEC, NOP (spec/44_stack_flag_misc.md R170 to R174; decisions D2, D3, D14, D17). -/
def Obligations.StackAndFlagInstructions : Prop :=
  Claims.Encodings .pha
    [(0x48, .implied, 1, .g)] ∧
  Claims.Encodings .pla
    [(0x68, .implied, 1, .g)] ∧
  Claims.Encodings .clc
    [(0x18, .implied, 1, .g)] ∧
  Claims.Encodings .sec
    [(0x38, .implied, 1, .g)] ∧
  Claims.Encodings .nop
    [(0xEA, .implied, 1, .g)] ∧
  (∀ (s : State) (v : Byte), s.pc ≠ 0xFFFF → v = s.mem.read (0x0100 + (s.sp + 1).toNat) →
    exec .pha s = .next { s with
      mem := s.mem.write (0x0100 + s.sp.toNat) s.a, sp := s.sp - 1, pc := s.pc + 1, steps := s.steps + 1 } ∧
    exec .pla s = .next { s with
      a := v, n := v.getLsbD 7, z := decide (v = 0), sp := s.sp + 1, pc := s.pc + 1, steps := s.steps + 1 } ∧
    exec .clc s = .next { s with c := false, pc := s.pc + 1, steps := s.steps + 1 } ∧
    exec .sec s = .next { s with c := true, pc := s.pc + 1, steps := s.steps + 1 } ∧
    exec .nop s = .next { s with pc := s.pc + 1, steps := s.steps + 1 }) ∧
  ∀ i ∈ [Instr.pha, .pla, .clc, .sec, .nop], Claims.FailsAtTop i

/-! ### Decoded, not executed -/

/-- BIT and the indirect jump, the two decoded-only instructions that name a memory operand (spec/45_decoded_not_executed.md R181, R192;
spec/20_memory.md R66; decision D4): the Decoder gives the operand as it stands in the bytes, the indirect mode is that one byte's,
and the Executor resolves neither: it raises. -/
def Obligations.DecodedOnlyOperands : Prop :=
  (∀ (op : Byte) (d : Descriptor), opcodeTable op = some d → (d.mode = .indirect ↔ op = 0x6C)) ∧
  (∀ (b1 b2 : Byte) (a : Nat), a + 3 ≤ 65536 →
    decodeBuffer [0x24, b1] a = some [.record ⟨BitVec.ofNat 16 a, .bit, .zeroPage, 2, [0x24, b1], .byte b1, .absent⟩] ∧
    ∀ w : Addr, w.toNat = b2.toNat * 256 + b1.toNat →
      decodeBuffer [0x2C, b1, b2] a = some [.record ⟨BitVec.ofNat 16 a, .bit, .absolute, 3, [0x2C, b1, b2], .word w, .resolved w⟩] ∧
      decodeBuffer [0x6C, b1, b2] a =
        some [.record ⟨BitVec.ofNat 16 a, .jmp, .indirect, 3, [0x6C, b1, b2], .word w, .resolved w⟩]) ∧
  (∀ (i : Instr) (s : State), i.mnemonic = .bit ∨ i.mode = .indirect →
    exec i s = .next (Claims.fatal s (.unsupportedOpcode i.opcode s.pc))) ∧
  ∀ s : State, Ready s → s.byteAt s.pc ∈ [0x24, 0x2C, 0x6C] →
    step s = .next (Claims.fatal s (.unsupportedOpcode (s.byteAt s.pc) s.pc))

/-- The thirteen mnemonics and fourteen bytes of spec/45_decoded_not_executed.md R180 to R193 (decision D4): each has its descriptor and
its record, and executing it ends the run with `UnsupportedOpcode` and nothing else, in every state. -/
def Obligations.DecodedNotExecuted : Prop :=
  Claims.DecodedOnly 0x24 ⟨.bit, 2, .zeroPage⟩ ∧ Claims.DecodedOnly 0x2C ⟨.bit, 3, .absolute⟩ ∧
  Claims.DecodedOnly 0x00 ⟨.brk, 1, .implied⟩ ∧ Claims.DecodedOnly 0x40 ⟨.rti, 1, .implied⟩ ∧
  Claims.DecodedOnly 0x08 ⟨.php, 1, .implied⟩ ∧ Claims.DecodedOnly 0x28 ⟨.plp, 1, .implied⟩ ∧
  Claims.DecodedOnly 0x50 ⟨.bvc, 2, .relative⟩ ∧ Claims.DecodedOnly 0x70 ⟨.bvs, 2, .relative⟩ ∧
  Claims.DecodedOnly 0xB8 ⟨.clv, 1, .implied⟩ ∧ Claims.DecodedOnly 0xD8 ⟨.cld, 1, .implied⟩ ∧
  Claims.DecodedOnly 0xF8 ⟨.sed, 1, .implied⟩ ∧ Claims.DecodedOnly 0x58 ⟨.cli, 1, .implied⟩ ∧
  Claims.DecodedOnly 0x78 ⟨.sei, 1, .implied⟩ ∧ Claims.DecodedOnly 0x6C ⟨.jmp, 3, .indirect⟩
end

