-- ==== Sys2Proof/Laws/PerInstr.lean ====
section
/-! SUPPORT. One lemma per instruction about its row: what the Opcode Table says of its opcode byte is the instruction's own
descriptor, the descriptor and the operand form are well formed, and the encoding has the descriptor's size
(spec/30_encoding.md R70, R79, R80, R83). -/

namespace Sys2Proof.Laws

/-- An instruction's encoding and its row agree. -/
def TableRow.Statement (i : Instr) : Prop :=
  opcodeTable i.opcode = some i.descriptor ∧ i.descriptor.wf = true ∧ i.wf = true ∧ (encode i).length = i.size

theorem TableRow.brk : TableRow.Statement .brk :=
  ⟨show opcodeTable 0x00 = some ⟨.brk, 1, .implied⟩ from rfl, rfl, rfl, rfl⟩
theorem TableRow.oraIndX (b : Byte) : TableRow.Statement (.oraIndX b) :=
  ⟨show opcodeTable 0x01 = some ⟨.ora, 2, .indexedIndirect⟩ from rfl, rfl, rfl, rfl⟩
theorem TableRow.oraZp (b : Byte) : TableRow.Statement (.oraZp b) :=
  ⟨show opcodeTable 0x05 = some ⟨.ora, 2, .zeroPage⟩ from rfl, rfl, rfl, rfl⟩
theorem TableRow.aslZp (b : Byte) : TableRow.Statement (.aslZp b) :=
  ⟨show opcodeTable 0x06 = some ⟨.asl, 2, .zeroPage⟩ from rfl, rfl, rfl, rfl⟩
theorem TableRow.php : TableRow.Statement .php :=
  ⟨show opcodeTable 0x08 = some ⟨.php, 1, .implied⟩ from rfl, rfl, rfl, rfl⟩
theorem TableRow.oraImm (b : Byte) : TableRow.Statement (.oraImm b) :=
  ⟨show opcodeTable 0x09 = some ⟨.ora, 2, .immediate⟩ from rfl, rfl, rfl, rfl⟩
theorem TableRow.aslAcc : TableRow.Statement .aslAcc :=
  ⟨show opcodeTable 0x0A = some ⟨.asl, 1, .accumulator⟩ from rfl, rfl, rfl, rfl⟩
theorem TableRow.oraAbs (w : Addr) : TableRow.Statement (.oraAbs w) :=
  ⟨show opcodeTable 0x0D = some ⟨.ora, 3, .absolute⟩ from rfl, rfl, rfl, rfl⟩
theorem TableRow.aslAbs (w : Addr) : TableRow.Statement (.aslAbs w) :=
  ⟨show opcodeTable 0x0E = some ⟨.asl, 3, .absolute⟩ from rfl, rfl, rfl, rfl⟩
theorem TableRow.bpl (b : Byte) : TableRow.Statement (.bpl b) :=
  ⟨show opcodeTable 0x10 = some ⟨.bpl, 2, .relative⟩ from rfl, rfl, rfl, rfl⟩
theorem TableRow.oraIndY (b : Byte) : TableRow.Statement (.oraIndY b) :=
  ⟨show opcodeTable 0x11 = some ⟨.ora, 2, .indirectIndexed⟩ from rfl, rfl, rfl, rfl⟩
theorem TableRow.oraZpX (b : Byte) : TableRow.Statement (.oraZpX b) :=
  ⟨show opcodeTable 0x15 = some ⟨.ora, 2, .zeroPageX⟩ from rfl, rfl, rfl, rfl⟩
theorem TableRow.aslZpX (b : Byte) : TableRow.Statement (.aslZpX b) :=
  ⟨show opcodeTable 0x16 = some ⟨.asl, 2, .zeroPageX⟩ from rfl, rfl, rfl, rfl⟩
theorem TableRow.clc : TableRow.Statement .clc :=
  ⟨show opcodeTable 0x18 = some ⟨.clc, 1, .implied⟩ from rfl, rfl, rfl, rfl⟩
theorem TableRow.oraAbsY (w : Addr) : TableRow.Statement (.oraAbsY w) :=
  ⟨show opcodeTable 0x19 = some ⟨.ora, 3, .absoluteY⟩ from rfl, rfl, rfl, rfl⟩
theorem TableRow.oraAbsX (w : Addr) : TableRow.Statement (.oraAbsX w) :=
  ⟨show opcodeTable 0x1D = some ⟨.ora, 3, .absoluteX⟩ from rfl, rfl, rfl, rfl⟩
theorem TableRow.aslAbsX (w : Addr) : TableRow.Statement (.aslAbsX w) :=
  ⟨show opcodeTable 0x1E = some ⟨.asl, 3, .absoluteX⟩ from rfl, rfl, rfl, rfl⟩
theorem TableRow.jsr (w : Addr) : TableRow.Statement (.jsr w) :=
  ⟨show opcodeTable 0x20 = some ⟨.jsr, 3, .absolute⟩ from rfl, rfl, rfl, rfl⟩
theorem TableRow.andIndX (b : Byte) : TableRow.Statement (.andIndX b) :=
  ⟨show opcodeTable 0x21 = some ⟨.and, 2, .indexedIndirect⟩ from rfl, rfl, rfl, rfl⟩
theorem TableRow.bitZp (b : Byte) : TableRow.Statement (.bitZp b) :=
  ⟨show opcodeTable 0x24 = some ⟨.bit, 2, .zeroPage⟩ from rfl, rfl, rfl, rfl⟩
theorem TableRow.andZp (b : Byte) : TableRow.Statement (.andZp b) :=
  ⟨show opcodeTable 0x25 = some ⟨.and, 2, .zeroPage⟩ from rfl, rfl, rfl, rfl⟩
theorem TableRow.rolZp (b : Byte) : TableRow.Statement (.rolZp b) :=
  ⟨show opcodeTable 0x26 = some ⟨.rol, 2, .zeroPage⟩ from rfl, rfl, rfl, rfl⟩
theorem TableRow.plp : TableRow.Statement .plp :=
  ⟨show opcodeTable 0x28 = some ⟨.plp, 1, .implied⟩ from rfl, rfl, rfl, rfl⟩
theorem TableRow.andImm (b : Byte) : TableRow.Statement (.andImm b) :=
  ⟨show opcodeTable 0x29 = some ⟨.and, 2, .immediate⟩ from rfl, rfl, rfl, rfl⟩
theorem TableRow.rolAcc : TableRow.Statement .rolAcc :=
  ⟨show opcodeTable 0x2A = some ⟨.rol, 1, .accumulator⟩ from rfl, rfl, rfl, rfl⟩
theorem TableRow.bitAbs (w : Addr) : TableRow.Statement (.bitAbs w) :=
  ⟨show opcodeTable 0x2C = some ⟨.bit, 3, .absolute⟩ from rfl, rfl, rfl, rfl⟩
theorem TableRow.andAbs (w : Addr) : TableRow.Statement (.andAbs w) :=
  ⟨show opcodeTable 0x2D = some ⟨.and, 3, .absolute⟩ from rfl, rfl, rfl, rfl⟩
theorem TableRow.rolAbs (w : Addr) : TableRow.Statement (.rolAbs w) :=
  ⟨show opcodeTable 0x2E = some ⟨.rol, 3, .absolute⟩ from rfl, rfl, rfl, rfl⟩
theorem TableRow.bmi (b : Byte) : TableRow.Statement (.bmi b) :=
  ⟨show opcodeTable 0x30 = some ⟨.bmi, 2, .relative⟩ from rfl, rfl, rfl, rfl⟩
theorem TableRow.andIndY (b : Byte) : TableRow.Statement (.andIndY b) :=
  ⟨show opcodeTable 0x31 = some ⟨.and, 2, .indirectIndexed⟩ from rfl, rfl, rfl, rfl⟩
theorem TableRow.andZpX (b : Byte) : TableRow.Statement (.andZpX b) :=
  ⟨show opcodeTable 0x35 = some ⟨.and, 2, .zeroPageX⟩ from rfl, rfl, rfl, rfl⟩
theorem TableRow.rolZpX (b : Byte) : TableRow.Statement (.rolZpX b) :=
  ⟨show opcodeTable 0x36 = some ⟨.rol, 2, .zeroPageX⟩ from rfl, rfl, rfl, rfl⟩
theorem TableRow.sec : TableRow.Statement .sec :=
  ⟨show opcodeTable 0x38 = some ⟨.sec, 1, .implied⟩ from rfl, rfl, rfl, rfl⟩
theorem TableRow.andAbsY (w : Addr) : TableRow.Statement (.andAbsY w) :=
  ⟨show opcodeTable 0x39 = some ⟨.and, 3, .absoluteY⟩ from rfl, rfl, rfl, rfl⟩
theorem TableRow.andAbsX (w : Addr) : TableRow.Statement (.andAbsX w) :=
  ⟨show opcodeTable 0x3D = some ⟨.and, 3, .absoluteX⟩ from rfl, rfl, rfl, rfl⟩
theorem TableRow.rolAbsX (w : Addr) : TableRow.Statement (.rolAbsX w) :=
  ⟨show opcodeTable 0x3E = some ⟨.rol, 3, .absoluteX⟩ from rfl, rfl, rfl, rfl⟩
theorem TableRow.rti : TableRow.Statement .rti :=
  ⟨show opcodeTable 0x40 = some ⟨.rti, 1, .implied⟩ from rfl, rfl, rfl, rfl⟩
theorem TableRow.eorIndX (b : Byte) : TableRow.Statement (.eorIndX b) :=
  ⟨show opcodeTable 0x41 = some ⟨.eor, 2, .indexedIndirect⟩ from rfl, rfl, rfl, rfl⟩
theorem TableRow.eorZp (b : Byte) : TableRow.Statement (.eorZp b) :=
  ⟨show opcodeTable 0x45 = some ⟨.eor, 2, .zeroPage⟩ from rfl, rfl, rfl, rfl⟩
theorem TableRow.lsrZp (b : Byte) : TableRow.Statement (.lsrZp b) :=
  ⟨show opcodeTable 0x46 = some ⟨.lsr, 2, .zeroPage⟩ from rfl, rfl, rfl, rfl⟩
theorem TableRow.pha : TableRow.Statement .pha :=
  ⟨show opcodeTable 0x48 = some ⟨.pha, 1, .implied⟩ from rfl, rfl, rfl, rfl⟩
theorem TableRow.eorImm (b : Byte) : TableRow.Statement (.eorImm b) :=
  ⟨show opcodeTable 0x49 = some ⟨.eor, 2, .immediate⟩ from rfl, rfl, rfl, rfl⟩
theorem TableRow.lsrAcc : TableRow.Statement .lsrAcc :=
  ⟨show opcodeTable 0x4A = some ⟨.lsr, 1, .accumulator⟩ from rfl, rfl, rfl, rfl⟩
theorem TableRow.jmpAbs (w : Addr) : TableRow.Statement (.jmpAbs w) :=
  ⟨show opcodeTable 0x4C = some ⟨.jmp, 3, .absolute⟩ from rfl, rfl, rfl, rfl⟩
theorem TableRow.eorAbs (w : Addr) : TableRow.Statement (.eorAbs w) :=
  ⟨show opcodeTable 0x4D = some ⟨.eor, 3, .absolute⟩ from rfl, rfl, rfl, rfl⟩
theorem TableRow.lsrAbs (w : Addr) : TableRow.Statement (.lsrAbs w) :=
  ⟨show opcodeTable 0x4E = some ⟨.lsr, 3, .absolute⟩ from rfl, rfl, rfl, rfl⟩
theorem TableRow.bvc (b : Byte) : TableRow.Statement (.bvc b) :=
  ⟨show opcodeTable 0x50 = some ⟨.bvc, 2, .relative⟩ from rfl, rfl, rfl, rfl⟩
theorem TableRow.eorIndY (b : Byte) : TableRow.Statement (.eorIndY b) :=
  ⟨show opcodeTable 0x51 = some ⟨.eor, 2, .indirectIndexed⟩ from rfl, rfl, rfl, rfl⟩
theorem TableRow.eorZpX (b : Byte) : TableRow.Statement (.eorZpX b) :=
  ⟨show opcodeTable 0x55 = some ⟨.eor, 2, .zeroPageX⟩ from rfl, rfl, rfl, rfl⟩
theorem TableRow.lsrZpX (b : Byte) : TableRow.Statement (.lsrZpX b) :=
  ⟨show opcodeTable 0x56 = some ⟨.lsr, 2, .zeroPageX⟩ from rfl, rfl, rfl, rfl⟩
theorem TableRow.cli : TableRow.Statement .cli :=
  ⟨show opcodeTable 0x58 = some ⟨.cli, 1, .implied⟩ from rfl, rfl, rfl, rfl⟩
theorem TableRow.eorAbsY (w : Addr) : TableRow.Statement (.eorAbsY w) :=
  ⟨show opcodeTable 0x59 = some ⟨.eor, 3, .absoluteY⟩ from rfl, rfl, rfl, rfl⟩
theorem TableRow.eorAbsX (w : Addr) : TableRow.Statement (.eorAbsX w) :=
  ⟨show opcodeTable 0x5D = some ⟨.eor, 3, .absoluteX⟩ from rfl, rfl, rfl, rfl⟩
theorem TableRow.lsrAbsX (w : Addr) : TableRow.Statement (.lsrAbsX w) :=
  ⟨show opcodeTable 0x5E = some ⟨.lsr, 3, .absoluteX⟩ from rfl, rfl, rfl, rfl⟩
theorem TableRow.rts : TableRow.Statement .rts :=
  ⟨show opcodeTable 0x60 = some ⟨.rts, 1, .implied⟩ from rfl, rfl, rfl, rfl⟩
theorem TableRow.adcIndX (b : Byte) : TableRow.Statement (.adcIndX b) :=
  ⟨show opcodeTable 0x61 = some ⟨.adc, 2, .indexedIndirect⟩ from rfl, rfl, rfl, rfl⟩
theorem TableRow.adcZp (b : Byte) : TableRow.Statement (.adcZp b) :=
  ⟨show opcodeTable 0x65 = some ⟨.adc, 2, .zeroPage⟩ from rfl, rfl, rfl, rfl⟩
theorem TableRow.rorZp (b : Byte) : TableRow.Statement (.rorZp b) :=
  ⟨show opcodeTable 0x66 = some ⟨.ror, 2, .zeroPage⟩ from rfl, rfl, rfl, rfl⟩
theorem TableRow.pla : TableRow.Statement .pla :=
  ⟨show opcodeTable 0x68 = some ⟨.pla, 1, .implied⟩ from rfl, rfl, rfl, rfl⟩
theorem TableRow.adcImm (b : Byte) : TableRow.Statement (.adcImm b) :=
  ⟨show opcodeTable 0x69 = some ⟨.adc, 2, .immediate⟩ from rfl, rfl, rfl, rfl⟩
theorem TableRow.rorAcc : TableRow.Statement .rorAcc :=
  ⟨show opcodeTable 0x6A = some ⟨.ror, 1, .accumulator⟩ from rfl, rfl, rfl, rfl⟩
theorem TableRow.jmpInd (w : Addr) : TableRow.Statement (.jmpInd w) :=
  ⟨show opcodeTable 0x6C = some ⟨.jmp, 3, .indirect⟩ from rfl, rfl, rfl, rfl⟩
theorem TableRow.adcAbs (w : Addr) : TableRow.Statement (.adcAbs w) :=
  ⟨show opcodeTable 0x6D = some ⟨.adc, 3, .absolute⟩ from rfl, rfl, rfl, rfl⟩
theorem TableRow.rorAbs (w : Addr) : TableRow.Statement (.rorAbs w) :=
  ⟨show opcodeTable 0x6E = some ⟨.ror, 3, .absolute⟩ from rfl, rfl, rfl, rfl⟩
theorem TableRow.bvs (b : Byte) : TableRow.Statement (.bvs b) :=
  ⟨show opcodeTable 0x70 = some ⟨.bvs, 2, .relative⟩ from rfl, rfl, rfl, rfl⟩
theorem TableRow.adcIndY (b : Byte) : TableRow.Statement (.adcIndY b) :=
  ⟨show opcodeTable 0x71 = some ⟨.adc, 2, .indirectIndexed⟩ from rfl, rfl, rfl, rfl⟩
theorem TableRow.adcZpX (b : Byte) : TableRow.Statement (.adcZpX b) :=
  ⟨show opcodeTable 0x75 = some ⟨.adc, 2, .zeroPageX⟩ from rfl, rfl, rfl, rfl⟩
theorem TableRow.rorZpX (b : Byte) : TableRow.Statement (.rorZpX b) :=
  ⟨show opcodeTable 0x76 = some ⟨.ror, 2, .zeroPageX⟩ from rfl, rfl, rfl, rfl⟩
theorem TableRow.sei : TableRow.Statement .sei :=
  ⟨show opcodeTable 0x78 = some ⟨.sei, 1, .implied⟩ from rfl, rfl, rfl, rfl⟩
theorem TableRow.adcAbsY (w : Addr) : TableRow.Statement (.adcAbsY w) :=
  ⟨show opcodeTable 0x79 = some ⟨.adc, 3, .absoluteY⟩ from rfl, rfl, rfl, rfl⟩
theorem TableRow.adcAbsX (w : Addr) : TableRow.Statement (.adcAbsX w) :=
  ⟨show opcodeTable 0x7D = some ⟨.adc, 3, .absoluteX⟩ from rfl, rfl, rfl, rfl⟩
theorem TableRow.rorAbsX (w : Addr) : TableRow.Statement (.rorAbsX w) :=
  ⟨show opcodeTable 0x7E = some ⟨.ror, 3, .absoluteX⟩ from rfl, rfl, rfl, rfl⟩
theorem TableRow.staIndX (b : Byte) : TableRow.Statement (.staIndX b) :=
  ⟨show opcodeTable 0x81 = some ⟨.sta, 2, .indexedIndirect⟩ from rfl, rfl, rfl, rfl⟩
theorem TableRow.styZp (b : Byte) : TableRow.Statement (.styZp b) :=
  ⟨show opcodeTable 0x84 = some ⟨.sty, 2, .zeroPage⟩ from rfl, rfl, rfl, rfl⟩
theorem TableRow.staZp (b : Byte) : TableRow.Statement (.staZp b) :=
  ⟨show opcodeTable 0x85 = some ⟨.sta, 2, .zeroPage⟩ from rfl, rfl, rfl, rfl⟩
theorem TableRow.stxZp (b : Byte) : TableRow.Statement (.stxZp b) :=
  ⟨show opcodeTable 0x86 = some ⟨.stx, 2, .zeroPage⟩ from rfl, rfl, rfl, rfl⟩
theorem TableRow.dey : TableRow.Statement .dey :=
  ⟨show opcodeTable 0x88 = some ⟨.dey, 1, .implied⟩ from rfl, rfl, rfl, rfl⟩
theorem TableRow.txa : TableRow.Statement .txa :=
  ⟨show opcodeTable 0x8A = some ⟨.txa, 1, .implied⟩ from rfl, rfl, rfl, rfl⟩
theorem TableRow.styAbs (w : Addr) : TableRow.Statement (.styAbs w) :=
  ⟨show opcodeTable 0x8C = some ⟨.sty, 3, .absolute⟩ from rfl, rfl, rfl, rfl⟩
theorem TableRow.staAbs (w : Addr) : TableRow.Statement (.staAbs w) :=
  ⟨show opcodeTable 0x8D = some ⟨.sta, 3, .absolute⟩ from rfl, rfl, rfl, rfl⟩
theorem TableRow.stxAbs (w : Addr) : TableRow.Statement (.stxAbs w) :=
  ⟨show opcodeTable 0x8E = some ⟨.stx, 3, .absolute⟩ from rfl, rfl, rfl, rfl⟩
theorem TableRow.bcc (b : Byte) : TableRow.Statement (.bcc b) :=
  ⟨show opcodeTable 0x90 = some ⟨.bcc, 2, .relative⟩ from rfl, rfl, rfl, rfl⟩
theorem TableRow.staIndY (b : Byte) : TableRow.Statement (.staIndY b) :=
  ⟨show opcodeTable 0x91 = some ⟨.sta, 2, .indirectIndexed⟩ from rfl, rfl, rfl, rfl⟩
theorem TableRow.styZpX (b : Byte) : TableRow.Statement (.styZpX b) :=
  ⟨show opcodeTable 0x94 = some ⟨.sty, 2, .zeroPageX⟩ from rfl, rfl, rfl, rfl⟩
theorem TableRow.staZpX (b : Byte) : TableRow.Statement (.staZpX b) :=
  ⟨show opcodeTable 0x95 = some ⟨.sta, 2, .zeroPageX⟩ from rfl, rfl, rfl, rfl⟩
theorem TableRow.stxZpY (b : Byte) : TableRow.Statement (.stxZpY b) :=
  ⟨show opcodeTable 0x96 = some ⟨.stx, 2, .zeroPageY⟩ from rfl, rfl, rfl, rfl⟩
theorem TableRow.tya : TableRow.Statement .tya :=
  ⟨show opcodeTable 0x98 = some ⟨.tya, 1, .implied⟩ from rfl, rfl, rfl, rfl⟩
theorem TableRow.staAbsY (w : Addr) : TableRow.Statement (.staAbsY w) :=
  ⟨show opcodeTable 0x99 = some ⟨.sta, 3, .absoluteY⟩ from rfl, rfl, rfl, rfl⟩
theorem TableRow.txs : TableRow.Statement .txs :=
  ⟨show opcodeTable 0x9A = some ⟨.txs, 1, .implied⟩ from rfl, rfl, rfl, rfl⟩
theorem TableRow.staAbsX (w : Addr) : TableRow.Statement (.staAbsX w) :=
  ⟨show opcodeTable 0x9D = some ⟨.sta, 3, .absoluteX⟩ from rfl, rfl, rfl, rfl⟩
theorem TableRow.ldyImm (b : Byte) : TableRow.Statement (.ldyImm b) :=
  ⟨show opcodeTable 0xA0 = some ⟨.ldy, 2, .immediate⟩ from rfl, rfl, rfl, rfl⟩
theorem TableRow.ldaIndX (b : Byte) : TableRow.Statement (.ldaIndX b) :=
  ⟨show opcodeTable 0xA1 = some ⟨.lda, 2, .indexedIndirect⟩ from rfl, rfl, rfl, rfl⟩
theorem TableRow.ldxImm (b : Byte) : TableRow.Statement (.ldxImm b) :=
  ⟨show opcodeTable 0xA2 = some ⟨.ldx, 2, .immediate⟩ from rfl, rfl, rfl, rfl⟩
theorem TableRow.ldyZp (b : Byte) : TableRow.Statement (.ldyZp b) :=
  ⟨show opcodeTable 0xA4 = some ⟨.ldy, 2, .zeroPage⟩ from rfl, rfl, rfl, rfl⟩
theorem TableRow.ldaZp (b : Byte) : TableRow.Statement (.ldaZp b) :=
  ⟨show opcodeTable 0xA5 = some ⟨.lda, 2, .zeroPage⟩ from rfl, rfl, rfl, rfl⟩
theorem TableRow.ldxZp (b : Byte) : TableRow.Statement (.ldxZp b) :=
  ⟨show opcodeTable 0xA6 = some ⟨.ldx, 2, .zeroPage⟩ from rfl, rfl, rfl, rfl⟩
theorem TableRow.tay : TableRow.Statement .tay :=
  ⟨show opcodeTable 0xA8 = some ⟨.tay, 1, .implied⟩ from rfl, rfl, rfl, rfl⟩
theorem TableRow.ldaImm (b : Byte) : TableRow.Statement (.ldaImm b) :=
  ⟨show opcodeTable 0xA9 = some ⟨.lda, 2, .immediate⟩ from rfl, rfl, rfl, rfl⟩
theorem TableRow.tax : TableRow.Statement .tax :=
  ⟨show opcodeTable 0xAA = some ⟨.tax, 1, .implied⟩ from rfl, rfl, rfl, rfl⟩
theorem TableRow.ldyAbs (w : Addr) : TableRow.Statement (.ldyAbs w) :=
  ⟨show opcodeTable 0xAC = some ⟨.ldy, 3, .absolute⟩ from rfl, rfl, rfl, rfl⟩
theorem TableRow.ldaAbs (w : Addr) : TableRow.Statement (.ldaAbs w) :=
  ⟨show opcodeTable 0xAD = some ⟨.lda, 3, .absolute⟩ from rfl, rfl, rfl, rfl⟩
theorem TableRow.ldxAbs (w : Addr) : TableRow.Statement (.ldxAbs w) :=
  ⟨show opcodeTable 0xAE = some ⟨.ldx, 3, .absolute⟩ from rfl, rfl, rfl, rfl⟩
theorem TableRow.bcs (b : Byte) : TableRow.Statement (.bcs b) :=
  ⟨show opcodeTable 0xB0 = some ⟨.bcs, 2, .relative⟩ from rfl, rfl, rfl, rfl⟩
theorem TableRow.ldaIndY (b : Byte) : TableRow.Statement (.ldaIndY b) :=
  ⟨show opcodeTable 0xB1 = some ⟨.lda, 2, .indirectIndexed⟩ from rfl, rfl, rfl, rfl⟩
theorem TableRow.ldyZpX (b : Byte) : TableRow.Statement (.ldyZpX b) :=
  ⟨show opcodeTable 0xB4 = some ⟨.ldy, 2, .zeroPageX⟩ from rfl, rfl, rfl, rfl⟩
theorem TableRow.ldaZpX (b : Byte) : TableRow.Statement (.ldaZpX b) :=
  ⟨show opcodeTable 0xB5 = some ⟨.lda, 2, .zeroPageX⟩ from rfl, rfl, rfl, rfl⟩
theorem TableRow.ldxZpY (b : Byte) : TableRow.Statement (.ldxZpY b) :=
  ⟨show opcodeTable 0xB6 = some ⟨.ldx, 2, .zeroPageY⟩ from rfl, rfl, rfl, rfl⟩
theorem TableRow.clv : TableRow.Statement .clv :=
  ⟨show opcodeTable 0xB8 = some ⟨.clv, 1, .implied⟩ from rfl, rfl, rfl, rfl⟩
theorem TableRow.ldaAbsY (w : Addr) : TableRow.Statement (.ldaAbsY w) :=
  ⟨show opcodeTable 0xB9 = some ⟨.lda, 3, .absoluteY⟩ from rfl, rfl, rfl, rfl⟩
theorem TableRow.tsx : TableRow.Statement .tsx :=
  ⟨show opcodeTable 0xBA = some ⟨.tsx, 1, .implied⟩ from rfl, rfl, rfl, rfl⟩
theorem TableRow.ldyAbsX (w : Addr) : TableRow.Statement (.ldyAbsX w) :=
  ⟨show opcodeTable 0xBC = some ⟨.ldy, 3, .absoluteX⟩ from rfl, rfl, rfl, rfl⟩
theorem TableRow.ldaAbsX (w : Addr) : TableRow.Statement (.ldaAbsX w) :=
  ⟨show opcodeTable 0xBD = some ⟨.lda, 3, .absoluteX⟩ from rfl, rfl, rfl, rfl⟩
theorem TableRow.ldxAbsY (w : Addr) : TableRow.Statement (.ldxAbsY w) :=
  ⟨show opcodeTable 0xBE = some ⟨.ldx, 3, .absoluteY⟩ from rfl, rfl, rfl, rfl⟩
theorem TableRow.cpyImm (b : Byte) : TableRow.Statement (.cpyImm b) :=
  ⟨show opcodeTable 0xC0 = some ⟨.cpy, 2, .immediate⟩ from rfl, rfl, rfl, rfl⟩
theorem TableRow.cmpIndX (b : Byte) : TableRow.Statement (.cmpIndX b) :=
  ⟨show opcodeTable 0xC1 = some ⟨.cmp, 2, .indexedIndirect⟩ from rfl, rfl, rfl, rfl⟩
theorem TableRow.cpyZp (b : Byte) : TableRow.Statement (.cpyZp b) :=
  ⟨show opcodeTable 0xC4 = some ⟨.cpy, 2, .zeroPage⟩ from rfl, rfl, rfl, rfl⟩
theorem TableRow.cmpZp (b : Byte) : TableRow.Statement (.cmpZp b) :=
  ⟨show opcodeTable 0xC5 = some ⟨.cmp, 2, .zeroPage⟩ from rfl, rfl, rfl, rfl⟩
theorem TableRow.decZp (b : Byte) : TableRow.Statement (.decZp b) :=
  ⟨show opcodeTable 0xC6 = some ⟨.dec, 2, .zeroPage⟩ from rfl, rfl, rfl, rfl⟩
theorem TableRow.iny : TableRow.Statement .iny :=
  ⟨show opcodeTable 0xC8 = some ⟨.iny, 1, .implied⟩ from rfl, rfl, rfl, rfl⟩
theorem TableRow.cmpImm (b : Byte) : TableRow.Statement (.cmpImm b) :=
  ⟨show opcodeTable 0xC9 = some ⟨.cmp, 2, .immediate⟩ from rfl, rfl, rfl, rfl⟩
theorem TableRow.dex : TableRow.Statement .dex :=
  ⟨show opcodeTable 0xCA = some ⟨.dex, 1, .implied⟩ from rfl, rfl, rfl, rfl⟩
theorem TableRow.cpyAbs (w : Addr) : TableRow.Statement (.cpyAbs w) :=
  ⟨show opcodeTable 0xCC = some ⟨.cpy, 3, .absolute⟩ from rfl, rfl, rfl, rfl⟩
theorem TableRow.cmpAbs (w : Addr) : TableRow.Statement (.cmpAbs w) :=
  ⟨show opcodeTable 0xCD = some ⟨.cmp, 3, .absolute⟩ from rfl, rfl, rfl, rfl⟩
theorem TableRow.decAbs (w : Addr) : TableRow.Statement (.decAbs w) :=
  ⟨show opcodeTable 0xCE = some ⟨.dec, 3, .absolute⟩ from rfl, rfl, rfl, rfl⟩
theorem TableRow.bne (b : Byte) : TableRow.Statement (.bne b) :=
  ⟨show opcodeTable 0xD0 = some ⟨.bne, 2, .relative⟩ from rfl, rfl, rfl, rfl⟩
theorem TableRow.cmpIndY (b : Byte) : TableRow.Statement (.cmpIndY b) :=
  ⟨show opcodeTable 0xD1 = some ⟨.cmp, 2, .indirectIndexed⟩ from rfl, rfl, rfl, rfl⟩
theorem TableRow.cmpZpX (b : Byte) : TableRow.Statement (.cmpZpX b) :=
  ⟨show opcodeTable 0xD5 = some ⟨.cmp, 2, .zeroPageX⟩ from rfl, rfl, rfl, rfl⟩
theorem TableRow.decZpX (b : Byte) : TableRow.Statement (.decZpX b) :=
  ⟨show opcodeTable 0xD6 = some ⟨.dec, 2, .zeroPageX⟩ from rfl, rfl, rfl, rfl⟩
theorem TableRow.cld : TableRow.Statement .cld :=
  ⟨show opcodeTable 0xD8 = some ⟨.cld, 1, .implied⟩ from rfl, rfl, rfl, rfl⟩
theorem TableRow.cmpAbsY (w : Addr) : TableRow.Statement (.cmpAbsY w) :=
  ⟨show opcodeTable 0xD9 = some ⟨.cmp, 3, .absoluteY⟩ from rfl, rfl, rfl, rfl⟩
theorem TableRow.cmpAbsX (w : Addr) : TableRow.Statement (.cmpAbsX w) :=
  ⟨show opcodeTable 0xDD = some ⟨.cmp, 3, .absoluteX⟩ from rfl, rfl, rfl, rfl⟩
theorem TableRow.decAbsX (w : Addr) : TableRow.Statement (.decAbsX w) :=
  ⟨show opcodeTable 0xDE = some ⟨.dec, 3, .absoluteX⟩ from rfl, rfl, rfl, rfl⟩
theorem TableRow.cpxImm (b : Byte) : TableRow.Statement (.cpxImm b) :=
  ⟨show opcodeTable 0xE0 = some ⟨.cpx, 2, .immediate⟩ from rfl, rfl, rfl, rfl⟩
theorem TableRow.sbcIndX (b : Byte) : TableRow.Statement (.sbcIndX b) :=
  ⟨show opcodeTable 0xE1 = some ⟨.sbc, 2, .indexedIndirect⟩ from rfl, rfl, rfl, rfl⟩
theorem TableRow.cpxZp (b : Byte) : TableRow.Statement (.cpxZp b) :=
  ⟨show opcodeTable 0xE4 = some ⟨.cpx, 2, .zeroPage⟩ from rfl, rfl, rfl, rfl⟩
theorem TableRow.sbcZp (b : Byte) : TableRow.Statement (.sbcZp b) :=
  ⟨show opcodeTable 0xE5 = some ⟨.sbc, 2, .zeroPage⟩ from rfl, rfl, rfl, rfl⟩
theorem TableRow.incZp (b : Byte) : TableRow.Statement (.incZp b) :=
  ⟨show opcodeTable 0xE6 = some ⟨.inc, 2, .zeroPage⟩ from rfl, rfl, rfl, rfl⟩
theorem TableRow.inx : TableRow.Statement .inx :=
  ⟨show opcodeTable 0xE8 = some ⟨.inx, 1, .implied⟩ from rfl, rfl, rfl, rfl⟩
theorem TableRow.sbcImm (b : Byte) : TableRow.Statement (.sbcImm b) :=
  ⟨show opcodeTable 0xE9 = some ⟨.sbc, 2, .immediate⟩ from rfl, rfl, rfl, rfl⟩
theorem TableRow.nop : TableRow.Statement .nop :=
  ⟨show opcodeTable 0xEA = some ⟨.nop, 1, .implied⟩ from rfl, rfl, rfl, rfl⟩
theorem TableRow.cpxAbs (w : Addr) : TableRow.Statement (.cpxAbs w) :=
  ⟨show opcodeTable 0xEC = some ⟨.cpx, 3, .absolute⟩ from rfl, rfl, rfl, rfl⟩
theorem TableRow.sbcAbs (w : Addr) : TableRow.Statement (.sbcAbs w) :=
  ⟨show opcodeTable 0xED = some ⟨.sbc, 3, .absolute⟩ from rfl, rfl, rfl, rfl⟩
theorem TableRow.incAbs (w : Addr) : TableRow.Statement (.incAbs w) :=
  ⟨show opcodeTable 0xEE = some ⟨.inc, 3, .absolute⟩ from rfl, rfl, rfl, rfl⟩
theorem TableRow.beq (b : Byte) : TableRow.Statement (.beq b) :=
  ⟨show opcodeTable 0xF0 = some ⟨.beq, 2, .relative⟩ from rfl, rfl, rfl, rfl⟩
theorem TableRow.sbcIndY (b : Byte) : TableRow.Statement (.sbcIndY b) :=
  ⟨show opcodeTable 0xF1 = some ⟨.sbc, 2, .indirectIndexed⟩ from rfl, rfl, rfl, rfl⟩
theorem TableRow.sbcZpX (b : Byte) : TableRow.Statement (.sbcZpX b) :=
  ⟨show opcodeTable 0xF5 = some ⟨.sbc, 2, .zeroPageX⟩ from rfl, rfl, rfl, rfl⟩
theorem TableRow.incZpX (b : Byte) : TableRow.Statement (.incZpX b) :=
  ⟨show opcodeTable 0xF6 = some ⟨.inc, 2, .zeroPageX⟩ from rfl, rfl, rfl, rfl⟩
theorem TableRow.sed : TableRow.Statement .sed :=
  ⟨show opcodeTable 0xF8 = some ⟨.sed, 1, .implied⟩ from rfl, rfl, rfl, rfl⟩
theorem TableRow.sbcAbsY (w : Addr) : TableRow.Statement (.sbcAbsY w) :=
  ⟨show opcodeTable 0xF9 = some ⟨.sbc, 3, .absoluteY⟩ from rfl, rfl, rfl, rfl⟩
theorem TableRow.sbcAbsX (w : Addr) : TableRow.Statement (.sbcAbsX w) :=
  ⟨show opcodeTable 0xFD = some ⟨.sbc, 3, .absoluteX⟩ from rfl, rfl, rfl, rfl⟩
theorem TableRow.incAbsX (w : Addr) : TableRow.Statement (.incAbsX w) :=
  ⟨show opcodeTable 0xFE = some ⟨.inc, 3, .absoluteX⟩ from rfl, rfl, rfl, rfl⟩

end Sys2Proof.Laws
end

