-- ==== Sys2Proof/Laws/Encoding.lean ====
section
/-! SUPPORT. The Opcode Table, the decoder and the fetch window: which row a byte has, that the byte-ordered rows and the by-mnemonic
modes of WellFormed.lean agree, and what `decode` and `fetch` do in each case. -/

namespace Sys2Proof

/-! ### The rows -/

/-- The rows stand in increasing byte order, so no byte has two (spec/30_encoding.md R80). -/
theorem allRows_rising : (allRows.map fun r => r.byte.toNat).Pairwise (· < ·) := by
  have h : (allRows.map fun r => r.byte.toNat).IsChain (· < ·) := by decide +kernel
  exact List.isChain_iff_pairwise.mp h

theorem allRows_length : allRows.length = 151 := by decide +kernel

/-- The matrix of R84 and the by-mnemonic table of R83 have the same cells. -/
theorem allRows_modes : ∀ r ∈ allRows, r.mode ∈ r.mnemonic.modes := by
  have h : allRows.all (fun r => r.mnemonic.modes.contains r.mode) = true := by decide +kernel
  simpa using h

/-- The make of a row has the size of its tag (spec/30_encoding.md R71, R73). -/
theorem allRows_size : ∀ r ∈ allRows, r.make.size = r.mode.size := by
  have h : allRows.all (fun r => r.make.size == r.mode.size) = true := by decide +kernel
  simpa using h

theorem lookup_some {op : Byte} {r : Row} (h : lookup op = some r) : r ∈ allRows ∧ r.byte = op := by
  have hm : ∀ k, ∀ q ∈ rowsOf k, q ∈ allRows := by
    intro k q hq
    unfold rowsOf at hq
    split at hq <;> first | exact absurd hq List.not_mem_nil | simp [allRows, hq]
  have hb := List.find?_some h
  exact ⟨hm _ _ (List.mem_of_find?_eq_some h), by simpa using hb⟩

/-- The bytes of the matrix, and no other, have a row. -/
theorem lookup_isSome (op : Byte) : (lookup op).isSome = (allRows.map Row.byte).contains op := by
  have h : allRows.all (fun r => (lookup r.byte).isSome) = true := by decide +kernel
  rw [Bool.eq_iff_iff, List.contains_iff_mem, List.mem_map]
  constructor
  · intro hs
    obtain ⟨r, hr⟩ := Option.isSome_iff_exists.mp hs
    exact ⟨r, lookup_some hr⟩
  · rintro ⟨r, hr, rfl⟩
    exact List.all_eq_true.mp h r hr

theorem opcodeTable_of_lookup {op : Byte} {r : Row} (h : lookup op = some r) : opcodeTable op = some r.descriptor := by
  rw [opcodeTable, h]
  rfl

theorem opcodeTable_none {op : Byte} : opcodeTable op = none ↔ lookup op = none := by
  unfold opcodeTable
  cases lookup op <;> simp

theorem opcodeTable_some {op : Byte} {d : Descriptor} (h : opcodeTable op = some d) :
    ∃ r, lookup op = some r ∧ r.descriptor = d := by
  unfold opcodeTable at h
  cases hr : lookup op with
  | none => rw [hr] at h; cases h
  | some r => rw [hr] at h; cases h; exact ⟨r, rfl, rfl⟩

theorem inExecSet_of_lookup {op : Byte} {r : Row} (h : lookup op = some r) : inExecSet op = r.executed := by
  rw [inExecSet, h]

theorem inExecSet_lookup {op : Byte} (h : inExecSet op = true) : ∃ r, lookup op = some r ∧ r.executed = true := by
  unfold inExecSet at h
  split at h
  · exact ⟨_, ‹_›, h⟩
  · cases h

theorem Mode.size_pos (m : Mode) : 1 ≤ m.size := by cases m <;> decide
theorem Mode.size_le (m : Mode) : m.size ≤ 3 := by cases m <;> decide
theorem Row.size_pos (r : Row) : 1 ≤ r.size := Mode.size_pos _
theorem Row.size_le (r : Row) : r.size ≤ 3 := Mode.size_le _
theorem Instr.size_pos (i : Instr) : 1 ≤ i.size := Mode.size_pos _
theorem Instr.size_le (i : Instr) : i.size ≤ 3 := Mode.size_le _

/-! ### One instruction -/

theorem decode_undefined {op : Byte} (h : lookup op = none) (rest : List Byte) : decode (op :: rest) = .undefined op := by
  rw [decode, h]

theorem decode_truncated {op : Byte} {r : Row} {rest : List Byte} (h : lookup op = some r) (hl : rest.length + 1 < r.size) :
    decode (op :: rest) = .truncated r.descriptor := by
  rw [decode, h]
  exact if_pos hl

theorem decode_instr {op : Byte} {r : Row} {rest : List Byte} (h : lookup op = some r) (hl : r.size ≤ rest.length + 1) :
    decode (op :: rest) = .instr (r.make.build (rest.getD 0 0) (rest.getD 1 0)) (rest.drop (r.size - 1)) := by
  rw [decode, h]
  exact if_neg (by omega)

theorem decode_instr_cases {bytes rest : List Byte} {i : Instr} (h : decode bytes = .instr i rest) :
    ∃ op tl r, bytes = op :: tl ∧ lookup op = some r ∧ r.size ≤ tl.length + 1 ∧
      i = r.make.build (tl.getD 0 0) (tl.getD 1 0) ∧ rest = tl.drop (r.size - 1) := by
  unfold decode at h
  split at h
  · cases h
  · rename_i op tl
    split at h
    · cases h
    · rename_i r hr
      split at h
      · cases h
      · cases h
        exact ⟨op, tl, r, rfl, hr, by omega, rfl, rfl⟩

/-! ### What a row makes -/

/-- The instruction a row makes has the row's byte, mnemonic and mode, whatever its operand bytes. -/
abbrev Row.MakesItself (r : Row) : Prop :=
  ∀ b1 b2, (r.make.build b1 b2).opcode = r.byte ∧ (r.make.build b1 b2).mnemonic = r.mnemonic ∧ (r.make.build b1 b2).mode = r.mode

theorem rows0_make : ∀ r ∈ rows0, r.MakesItself := by
  intro r hr
  fin_cases hr <;> exact fun _ _ => ⟨rfl, rfl, rfl⟩
theorem rows1_make : ∀ r ∈ rows1, r.MakesItself := by
  intro r hr
  fin_cases hr <;> exact fun _ _ => ⟨rfl, rfl, rfl⟩
theorem rows2_make : ∀ r ∈ rows2, r.MakesItself := by
  intro r hr
  fin_cases hr <;> exact fun _ _ => ⟨rfl, rfl, rfl⟩
theorem rows3_make : ∀ r ∈ rows3, r.MakesItself := by
  intro r hr
  fin_cases hr <;> exact fun _ _ => ⟨rfl, rfl, rfl⟩
theorem rows4_make : ∀ r ∈ rows4, r.MakesItself := by
  intro r hr
  fin_cases hr <;> exact fun _ _ => ⟨rfl, rfl, rfl⟩
theorem rows5_make : ∀ r ∈ rows5, r.MakesItself := by
  intro r hr
  fin_cases hr <;> exact fun _ _ => ⟨rfl, rfl, rfl⟩
theorem rows6_make : ∀ r ∈ rows6, r.MakesItself := by
  intro r hr
  fin_cases hr <;> exact fun _ _ => ⟨rfl, rfl, rfl⟩
theorem rows7_make : ∀ r ∈ rows7, r.MakesItself := by
  intro r hr
  fin_cases hr <;> exact fun _ _ => ⟨rfl, rfl, rfl⟩
theorem rows8_make : ∀ r ∈ rows8, r.MakesItself := by
  intro r hr
  fin_cases hr <;> exact fun _ _ => ⟨rfl, rfl, rfl⟩
theorem rows9_make : ∀ r ∈ rows9, r.MakesItself := by
  intro r hr
  fin_cases hr <;> exact fun _ _ => ⟨rfl, rfl, rfl⟩
theorem rowsA_make : ∀ r ∈ rowsA, r.MakesItself := by
  intro r hr
  fin_cases hr <;> exact fun _ _ => ⟨rfl, rfl, rfl⟩
theorem rowsB_make : ∀ r ∈ rowsB, r.MakesItself := by
  intro r hr
  fin_cases hr <;> exact fun _ _ => ⟨rfl, rfl, rfl⟩
theorem rowsC_make : ∀ r ∈ rowsC, r.MakesItself := by
  intro r hr
  fin_cases hr <;> exact fun _ _ => ⟨rfl, rfl, rfl⟩
theorem rowsD_make : ∀ r ∈ rowsD, r.MakesItself := by
  intro r hr
  fin_cases hr <;> exact fun _ _ => ⟨rfl, rfl, rfl⟩
theorem rowsE_make : ∀ r ∈ rowsE, r.MakesItself := by
  intro r hr
  fin_cases hr <;> exact fun _ _ => ⟨rfl, rfl, rfl⟩
theorem rowsF_make : ∀ r ∈ rowsF, r.MakesItself := by
  intro r hr
  fin_cases hr <;> exact fun _ _ => ⟨rfl, rfl, rfl⟩

theorem allRows_make : ∀ r ∈ allRows, r.MakesItself := by
  intro r hr
  simp only [allRows, List.mem_append] at hr
  rcases hr with (((((((((((((((h | h) | h) | h) | h) | h) | h) | h) | h) | h) | h) | h) | h) | h) | h) | h)
  · exact rows0_make r h
  · exact rows1_make r h
  · exact rows2_make r h
  · exact rows3_make r h
  · exact rows4_make r h
  · exact rows5_make r h
  · exact rows6_make r h
  · exact rows7_make r h
  · exact rows8_make r h
  · exact rows9_make r h
  · exact rowsA_make r h
  · exact rowsB_make r h
  · exact rowsC_make r h
  · exact rowsD_make r h
  · exact rowsE_make r h
  · exact rowsF_make r h

/-- What decodes has the opcode, the descriptor and the bytes of its row. -/
theorem decode_instr_row {op : Byte} {tl rest : List Byte} {i : Instr} (h : decode (op :: tl) = .instr i rest) :
    i.opcode = op ∧ opcodeTable op = some i.descriptor ∧ i.size ≤ tl.length + 1 ∧ rest = tl.drop (i.size - 1) := by
  obtain ⟨op', tl', r, he, hr, hl, hi, ht⟩ := decode_instr_cases h
  cases he
  obtain ⟨hm, hb⟩ := lookup_some hr
  obtain ⟨h₁, h₂, h₃⟩ := allRows_make r hm (tl.getD 0 0) (tl.getD 1 0)
  have hs : i.size = r.size := by rw [hi, Instr.size, h₃, Row.size]
  refine ⟨by rw [hi, h₁, hb], ?_, by omega, by rw [hs, ht]⟩
  rw [opcodeTable_of_lookup hr, hi, Instr.descriptor, Row.descriptor, Instr.size, Row.size, h₂, h₃]

/-- The row of every instruction, from the per-instruction lemmas. -/
theorem tableRow_of (i : Instr) : Laws.TableRow.Statement i := by
  cases i with
  | brk => exact Laws.TableRow.brk
  | oraIndX b => exact Laws.TableRow.oraIndX b
  | oraZp b => exact Laws.TableRow.oraZp b
  | aslZp b => exact Laws.TableRow.aslZp b
  | php => exact Laws.TableRow.php
  | oraImm b => exact Laws.TableRow.oraImm b
  | aslAcc => exact Laws.TableRow.aslAcc
  | oraAbs w => exact Laws.TableRow.oraAbs w
  | aslAbs w => exact Laws.TableRow.aslAbs w
  | bpl b => exact Laws.TableRow.bpl b
  | oraIndY b => exact Laws.TableRow.oraIndY b
  | oraZpX b => exact Laws.TableRow.oraZpX b
  | aslZpX b => exact Laws.TableRow.aslZpX b
  | clc => exact Laws.TableRow.clc
  | oraAbsY w => exact Laws.TableRow.oraAbsY w
  | oraAbsX w => exact Laws.TableRow.oraAbsX w
  | aslAbsX w => exact Laws.TableRow.aslAbsX w
  | jsr w => exact Laws.TableRow.jsr w
  | andIndX b => exact Laws.TableRow.andIndX b
  | bitZp b => exact Laws.TableRow.bitZp b
  | andZp b => exact Laws.TableRow.andZp b
  | rolZp b => exact Laws.TableRow.rolZp b
  | plp => exact Laws.TableRow.plp
  | andImm b => exact Laws.TableRow.andImm b
  | rolAcc => exact Laws.TableRow.rolAcc
  | bitAbs w => exact Laws.TableRow.bitAbs w
  | andAbs w => exact Laws.TableRow.andAbs w
  | rolAbs w => exact Laws.TableRow.rolAbs w
  | bmi b => exact Laws.TableRow.bmi b
  | andIndY b => exact Laws.TableRow.andIndY b
  | andZpX b => exact Laws.TableRow.andZpX b
  | rolZpX b => exact Laws.TableRow.rolZpX b
  | sec => exact Laws.TableRow.sec
  | andAbsY w => exact Laws.TableRow.andAbsY w
  | andAbsX w => exact Laws.TableRow.andAbsX w
  | rolAbsX w => exact Laws.TableRow.rolAbsX w
  | rti => exact Laws.TableRow.rti
  | eorIndX b => exact Laws.TableRow.eorIndX b
  | eorZp b => exact Laws.TableRow.eorZp b
  | lsrZp b => exact Laws.TableRow.lsrZp b
  | pha => exact Laws.TableRow.pha
  | eorImm b => exact Laws.TableRow.eorImm b
  | lsrAcc => exact Laws.TableRow.lsrAcc
  | jmpAbs w => exact Laws.TableRow.jmpAbs w
  | eorAbs w => exact Laws.TableRow.eorAbs w
  | lsrAbs w => exact Laws.TableRow.lsrAbs w
  | bvc b => exact Laws.TableRow.bvc b
  | eorIndY b => exact Laws.TableRow.eorIndY b
  | eorZpX b => exact Laws.TableRow.eorZpX b
  | lsrZpX b => exact Laws.TableRow.lsrZpX b
  | cli => exact Laws.TableRow.cli
  | eorAbsY w => exact Laws.TableRow.eorAbsY w
  | eorAbsX w => exact Laws.TableRow.eorAbsX w
  | lsrAbsX w => exact Laws.TableRow.lsrAbsX w
  | rts => exact Laws.TableRow.rts
  | adcIndX b => exact Laws.TableRow.adcIndX b
  | adcZp b => exact Laws.TableRow.adcZp b
  | rorZp b => exact Laws.TableRow.rorZp b
  | pla => exact Laws.TableRow.pla
  | adcImm b => exact Laws.TableRow.adcImm b
  | rorAcc => exact Laws.TableRow.rorAcc
  | jmpInd w => exact Laws.TableRow.jmpInd w
  | adcAbs w => exact Laws.TableRow.adcAbs w
  | rorAbs w => exact Laws.TableRow.rorAbs w
  | bvs b => exact Laws.TableRow.bvs b
  | adcIndY b => exact Laws.TableRow.adcIndY b
  | adcZpX b => exact Laws.TableRow.adcZpX b
  | rorZpX b => exact Laws.TableRow.rorZpX b
  | sei => exact Laws.TableRow.sei
  | adcAbsY w => exact Laws.TableRow.adcAbsY w
  | adcAbsX w => exact Laws.TableRow.adcAbsX w
  | rorAbsX w => exact Laws.TableRow.rorAbsX w
  | staIndX b => exact Laws.TableRow.staIndX b
  | styZp b => exact Laws.TableRow.styZp b
  | staZp b => exact Laws.TableRow.staZp b
  | stxZp b => exact Laws.TableRow.stxZp b
  | dey => exact Laws.TableRow.dey
  | txa => exact Laws.TableRow.txa
  | styAbs w => exact Laws.TableRow.styAbs w
  | staAbs w => exact Laws.TableRow.staAbs w
  | stxAbs w => exact Laws.TableRow.stxAbs w
  | bcc b => exact Laws.TableRow.bcc b
  | staIndY b => exact Laws.TableRow.staIndY b
  | styZpX b => exact Laws.TableRow.styZpX b
  | staZpX b => exact Laws.TableRow.staZpX b
  | stxZpY b => exact Laws.TableRow.stxZpY b
  | tya => exact Laws.TableRow.tya
  | staAbsY w => exact Laws.TableRow.staAbsY w
  | txs => exact Laws.TableRow.txs
  | staAbsX w => exact Laws.TableRow.staAbsX w
  | ldyImm b => exact Laws.TableRow.ldyImm b
  | ldaIndX b => exact Laws.TableRow.ldaIndX b
  | ldxImm b => exact Laws.TableRow.ldxImm b
  | ldyZp b => exact Laws.TableRow.ldyZp b
  | ldaZp b => exact Laws.TableRow.ldaZp b
  | ldxZp b => exact Laws.TableRow.ldxZp b
  | tay => exact Laws.TableRow.tay
  | ldaImm b => exact Laws.TableRow.ldaImm b
  | tax => exact Laws.TableRow.tax
  | ldyAbs w => exact Laws.TableRow.ldyAbs w
  | ldaAbs w => exact Laws.TableRow.ldaAbs w
  | ldxAbs w => exact Laws.TableRow.ldxAbs w
  | bcs b => exact Laws.TableRow.bcs b
  | ldaIndY b => exact Laws.TableRow.ldaIndY b
  | ldyZpX b => exact Laws.TableRow.ldyZpX b
  | ldaZpX b => exact Laws.TableRow.ldaZpX b
  | ldxZpY b => exact Laws.TableRow.ldxZpY b
  | clv => exact Laws.TableRow.clv
  | ldaAbsY w => exact Laws.TableRow.ldaAbsY w
  | tsx => exact Laws.TableRow.tsx
  | ldyAbsX w => exact Laws.TableRow.ldyAbsX w
  | ldaAbsX w => exact Laws.TableRow.ldaAbsX w
  | ldxAbsY w => exact Laws.TableRow.ldxAbsY w
  | cpyImm b => exact Laws.TableRow.cpyImm b
  | cmpIndX b => exact Laws.TableRow.cmpIndX b
  | cpyZp b => exact Laws.TableRow.cpyZp b
  | cmpZp b => exact Laws.TableRow.cmpZp b
  | decZp b => exact Laws.TableRow.decZp b
  | iny => exact Laws.TableRow.iny
  | cmpImm b => exact Laws.TableRow.cmpImm b
  | dex => exact Laws.TableRow.dex
  | cpyAbs w => exact Laws.TableRow.cpyAbs w
  | cmpAbs w => exact Laws.TableRow.cmpAbs w
  | decAbs w => exact Laws.TableRow.decAbs w
  | bne b => exact Laws.TableRow.bne b
  | cmpIndY b => exact Laws.TableRow.cmpIndY b
  | cmpZpX b => exact Laws.TableRow.cmpZpX b
  | decZpX b => exact Laws.TableRow.decZpX b
  | cld => exact Laws.TableRow.cld
  | cmpAbsY w => exact Laws.TableRow.cmpAbsY w
  | cmpAbsX w => exact Laws.TableRow.cmpAbsX w
  | decAbsX w => exact Laws.TableRow.decAbsX w
  | cpxImm b => exact Laws.TableRow.cpxImm b
  | sbcIndX b => exact Laws.TableRow.sbcIndX b
  | cpxZp b => exact Laws.TableRow.cpxZp b
  | sbcZp b => exact Laws.TableRow.sbcZp b
  | incZp b => exact Laws.TableRow.incZp b
  | inx => exact Laws.TableRow.inx
  | sbcImm b => exact Laws.TableRow.sbcImm b
  | nop => exact Laws.TableRow.nop
  | cpxAbs w => exact Laws.TableRow.cpxAbs w
  | sbcAbs w => exact Laws.TableRow.sbcAbs w
  | incAbs w => exact Laws.TableRow.incAbs w
  | beq b => exact Laws.TableRow.beq b
  | sbcIndY b => exact Laws.TableRow.sbcIndY b
  | sbcZpX b => exact Laws.TableRow.sbcZpX b
  | incZpX b => exact Laws.TableRow.incZpX b
  | sed => exact Laws.TableRow.sed
  | sbcAbsY w => exact Laws.TableRow.sbcAbsY w
  | sbcAbsX w => exact Laws.TableRow.sbcAbsX w
  | incAbsX w => exact Laws.TableRow.incAbsX w

/-- `word16` puts together what `loByte` and `hiByte` take apart (spec/30_encoding.md R76). -/
theorem word16_hiByte_loByte (w : Addr) : word16 (hiByte w) (loByte w) = w := by
  have := w.isLt
  apply BitVec.eq_of_toNat_eq
  simp only [word16, hiByte, loByte, BitVec.toNat_ofNat]
  omega

/-- The row of an instruction has its size and makes it again from its operand bytes, whatever follows them. -/
theorem lookup_rebuilds (i : Instr) (rest : List Byte) :
    ∃ r, lookup i.opcode = some r ∧ r.size = i.size ∧
      r.make.build ((i.form.bytes ++ rest).getD 0 0) ((i.form.bytes ++ rest).getD 1 0) = i := by
  cases i with
  | brk => exact ⟨_, show lookup 0x00 = some _ from rfl, rfl, rfl⟩
  | oraIndX b => exact ⟨_, show lookup 0x01 = some _ from rfl, rfl, rfl⟩
  | oraZp b => exact ⟨_, show lookup 0x05 = some _ from rfl, rfl, rfl⟩
  | aslZp b => exact ⟨_, show lookup 0x06 = some _ from rfl, rfl, rfl⟩
  | php => exact ⟨_, show lookup 0x08 = some _ from rfl, rfl, rfl⟩
  | oraImm b => exact ⟨_, show lookup 0x09 = some _ from rfl, rfl, rfl⟩
  | aslAcc => exact ⟨_, show lookup 0x0A = some _ from rfl, rfl, rfl⟩
  | oraAbs w => exact ⟨_, show lookup 0x0D = some _ from rfl, rfl, congrArg Instr.oraAbs (word16_hiByte_loByte w)⟩
  | aslAbs w => exact ⟨_, show lookup 0x0E = some _ from rfl, rfl, congrArg Instr.aslAbs (word16_hiByte_loByte w)⟩
  | bpl b => exact ⟨_, show lookup 0x10 = some _ from rfl, rfl, rfl⟩
  | oraIndY b => exact ⟨_, show lookup 0x11 = some _ from rfl, rfl, rfl⟩
  | oraZpX b => exact ⟨_, show lookup 0x15 = some _ from rfl, rfl, rfl⟩
  | aslZpX b => exact ⟨_, show lookup 0x16 = some _ from rfl, rfl, rfl⟩
  | clc => exact ⟨_, show lookup 0x18 = some _ from rfl, rfl, rfl⟩
  | oraAbsY w => exact ⟨_, show lookup 0x19 = some _ from rfl, rfl, congrArg Instr.oraAbsY (word16_hiByte_loByte w)⟩
  | oraAbsX w => exact ⟨_, show lookup 0x1D = some _ from rfl, rfl, congrArg Instr.oraAbsX (word16_hiByte_loByte w)⟩
  | aslAbsX w => exact ⟨_, show lookup 0x1E = some _ from rfl, rfl, congrArg Instr.aslAbsX (word16_hiByte_loByte w)⟩
  | jsr w => exact ⟨_, show lookup 0x20 = some _ from rfl, rfl, congrArg Instr.jsr (word16_hiByte_loByte w)⟩
  | andIndX b => exact ⟨_, show lookup 0x21 = some _ from rfl, rfl, rfl⟩
  | bitZp b => exact ⟨_, show lookup 0x24 = some _ from rfl, rfl, rfl⟩
  | andZp b => exact ⟨_, show lookup 0x25 = some _ from rfl, rfl, rfl⟩
  | rolZp b => exact ⟨_, show lookup 0x26 = some _ from rfl, rfl, rfl⟩
  | plp => exact ⟨_, show lookup 0x28 = some _ from rfl, rfl, rfl⟩
  | andImm b => exact ⟨_, show lookup 0x29 = some _ from rfl, rfl, rfl⟩
  | rolAcc => exact ⟨_, show lookup 0x2A = some _ from rfl, rfl, rfl⟩
  | bitAbs w => exact ⟨_, show lookup 0x2C = some _ from rfl, rfl, congrArg Instr.bitAbs (word16_hiByte_loByte w)⟩
  | andAbs w => exact ⟨_, show lookup 0x2D = some _ from rfl, rfl, congrArg Instr.andAbs (word16_hiByte_loByte w)⟩
  | rolAbs w => exact ⟨_, show lookup 0x2E = some _ from rfl, rfl, congrArg Instr.rolAbs (word16_hiByte_loByte w)⟩
  | bmi b => exact ⟨_, show lookup 0x30 = some _ from rfl, rfl, rfl⟩
  | andIndY b => exact ⟨_, show lookup 0x31 = some _ from rfl, rfl, rfl⟩
  | andZpX b => exact ⟨_, show lookup 0x35 = some _ from rfl, rfl, rfl⟩
  | rolZpX b => exact ⟨_, show lookup 0x36 = some _ from rfl, rfl, rfl⟩
  | sec => exact ⟨_, show lookup 0x38 = some _ from rfl, rfl, rfl⟩
  | andAbsY w => exact ⟨_, show lookup 0x39 = some _ from rfl, rfl, congrArg Instr.andAbsY (word16_hiByte_loByte w)⟩
  | andAbsX w => exact ⟨_, show lookup 0x3D = some _ from rfl, rfl, congrArg Instr.andAbsX (word16_hiByte_loByte w)⟩
  | rolAbsX w => exact ⟨_, show lookup 0x3E = some _ from rfl, rfl, congrArg Instr.rolAbsX (word16_hiByte_loByte w)⟩
  | rti => exact ⟨_, show lookup 0x40 = some _ from rfl, rfl, rfl⟩
  | eorIndX b => exact ⟨_, show lookup 0x41 = some _ from rfl, rfl, rfl⟩
  | eorZp b => exact ⟨_, show lookup 0x45 = some _ from rfl, rfl, rfl⟩
  | lsrZp b => exact ⟨_, show lookup 0x46 = some _ from rfl, rfl, rfl⟩
  | pha => exact ⟨_, show lookup 0x48 = some _ from rfl, rfl, rfl⟩
  | eorImm b => exact ⟨_, show lookup 0x49 = some _ from rfl, rfl, rfl⟩
  | lsrAcc => exact ⟨_, show lookup 0x4A = some _ from rfl, rfl, rfl⟩
  | jmpAbs w => exact ⟨_, show lookup 0x4C = some _ from rfl, rfl, congrArg Instr.jmpAbs (word16_hiByte_loByte w)⟩
  | eorAbs w => exact ⟨_, show lookup 0x4D = some _ from rfl, rfl, congrArg Instr.eorAbs (word16_hiByte_loByte w)⟩
  | lsrAbs w => exact ⟨_, show lookup 0x4E = some _ from rfl, rfl, congrArg Instr.lsrAbs (word16_hiByte_loByte w)⟩
  | bvc b => exact ⟨_, show lookup 0x50 = some _ from rfl, rfl, rfl⟩
  | eorIndY b => exact ⟨_, show lookup 0x51 = some _ from rfl, rfl, rfl⟩
  | eorZpX b => exact ⟨_, show lookup 0x55 = some _ from rfl, rfl, rfl⟩
  | lsrZpX b => exact ⟨_, show lookup 0x56 = some _ from rfl, rfl, rfl⟩
  | cli => exact ⟨_, show lookup 0x58 = some _ from rfl, rfl, rfl⟩
  | eorAbsY w => exact ⟨_, show lookup 0x59 = some _ from rfl, rfl, congrArg Instr.eorAbsY (word16_hiByte_loByte w)⟩
  | eorAbsX w => exact ⟨_, show lookup 0x5D = some _ from rfl, rfl, congrArg Instr.eorAbsX (word16_hiByte_loByte w)⟩
  | lsrAbsX w => exact ⟨_, show lookup 0x5E = some _ from rfl, rfl, congrArg Instr.lsrAbsX (word16_hiByte_loByte w)⟩
  | rts => exact ⟨_, show lookup 0x60 = some _ from rfl, rfl, rfl⟩
  | adcIndX b => exact ⟨_, show lookup 0x61 = some _ from rfl, rfl, rfl⟩
  | adcZp b => exact ⟨_, show lookup 0x65 = some _ from rfl, rfl, rfl⟩
  | rorZp b => exact ⟨_, show lookup 0x66 = some _ from rfl, rfl, rfl⟩
  | pla => exact ⟨_, show lookup 0x68 = some _ from rfl, rfl, rfl⟩
  | adcImm b => exact ⟨_, show lookup 0x69 = some _ from rfl, rfl, rfl⟩
  | rorAcc => exact ⟨_, show lookup 0x6A = some _ from rfl, rfl, rfl⟩
  | jmpInd w => exact ⟨_, show lookup 0x6C = some _ from rfl, rfl, congrArg Instr.jmpInd (word16_hiByte_loByte w)⟩
  | adcAbs w => exact ⟨_, show lookup 0x6D = some _ from rfl, rfl, congrArg Instr.adcAbs (word16_hiByte_loByte w)⟩
  | rorAbs w => exact ⟨_, show lookup 0x6E = some _ from rfl, rfl, congrArg Instr.rorAbs (word16_hiByte_loByte w)⟩
  | bvs b => exact ⟨_, show lookup 0x70 = some _ from rfl, rfl, rfl⟩
  | adcIndY b => exact ⟨_, show lookup 0x71 = some _ from rfl, rfl, rfl⟩
  | adcZpX b => exact ⟨_, show lookup 0x75 = some _ from rfl, rfl, rfl⟩
  | rorZpX b => exact ⟨_, show lookup 0x76 = some _ from rfl, rfl, rfl⟩
  | sei => exact ⟨_, show lookup 0x78 = some _ from rfl, rfl, rfl⟩
  | adcAbsY w => exact ⟨_, show lookup 0x79 = some _ from rfl, rfl, congrArg Instr.adcAbsY (word16_hiByte_loByte w)⟩
  | adcAbsX w => exact ⟨_, show lookup 0x7D = some _ from rfl, rfl, congrArg Instr.adcAbsX (word16_hiByte_loByte w)⟩
  | rorAbsX w => exact ⟨_, show lookup 0x7E = some _ from rfl, rfl, congrArg Instr.rorAbsX (word16_hiByte_loByte w)⟩
  | staIndX b => exact ⟨_, show lookup 0x81 = some _ from rfl, rfl, rfl⟩
  | styZp b => exact ⟨_, show lookup 0x84 = some _ from rfl, rfl, rfl⟩
  | staZp b => exact ⟨_, show lookup 0x85 = some _ from rfl, rfl, rfl⟩
  | stxZp b => exact ⟨_, show lookup 0x86 = some _ from rfl, rfl, rfl⟩
  | dey => exact ⟨_, show lookup 0x88 = some _ from rfl, rfl, rfl⟩
  | txa => exact ⟨_, show lookup 0x8A = some _ from rfl, rfl, rfl⟩
  | styAbs w => exact ⟨_, show lookup 0x8C = some _ from rfl, rfl, congrArg Instr.styAbs (word16_hiByte_loByte w)⟩
  | staAbs w => exact ⟨_, show lookup 0x8D = some _ from rfl, rfl, congrArg Instr.staAbs (word16_hiByte_loByte w)⟩
  | stxAbs w => exact ⟨_, show lookup 0x8E = some _ from rfl, rfl, congrArg Instr.stxAbs (word16_hiByte_loByte w)⟩
  | bcc b => exact ⟨_, show lookup 0x90 = some _ from rfl, rfl, rfl⟩
  | staIndY b => exact ⟨_, show lookup 0x91 = some _ from rfl, rfl, rfl⟩
  | styZpX b => exact ⟨_, show lookup 0x94 = some _ from rfl, rfl, rfl⟩
  | staZpX b => exact ⟨_, show lookup 0x95 = some _ from rfl, rfl, rfl⟩
  | stxZpY b => exact ⟨_, show lookup 0x96 = some _ from rfl, rfl, rfl⟩
  | tya => exact ⟨_, show lookup 0x98 = some _ from rfl, rfl, rfl⟩
  | staAbsY w => exact ⟨_, show lookup 0x99 = some _ from rfl, rfl, congrArg Instr.staAbsY (word16_hiByte_loByte w)⟩
  | txs => exact ⟨_, show lookup 0x9A = some _ from rfl, rfl, rfl⟩
  | staAbsX w => exact ⟨_, show lookup 0x9D = some _ from rfl, rfl, congrArg Instr.staAbsX (word16_hiByte_loByte w)⟩
  | ldyImm b => exact ⟨_, show lookup 0xA0 = some _ from rfl, rfl, rfl⟩
  | ldaIndX b => exact ⟨_, show lookup 0xA1 = some _ from rfl, rfl, rfl⟩
  | ldxImm b => exact ⟨_, show lookup 0xA2 = some _ from rfl, rfl, rfl⟩
  | ldyZp b => exact ⟨_, show lookup 0xA4 = some _ from rfl, rfl, rfl⟩
  | ldaZp b => exact ⟨_, show lookup 0xA5 = some _ from rfl, rfl, rfl⟩
  | ldxZp b => exact ⟨_, show lookup 0xA6 = some _ from rfl, rfl, rfl⟩
  | tay => exact ⟨_, show lookup 0xA8 = some _ from rfl, rfl, rfl⟩
  | ldaImm b => exact ⟨_, show lookup 0xA9 = some _ from rfl, rfl, rfl⟩
  | tax => exact ⟨_, show lookup 0xAA = some _ from rfl, rfl, rfl⟩
  | ldyAbs w => exact ⟨_, show lookup 0xAC = some _ from rfl, rfl, congrArg Instr.ldyAbs (word16_hiByte_loByte w)⟩
  | ldaAbs w => exact ⟨_, show lookup 0xAD = some _ from rfl, rfl, congrArg Instr.ldaAbs (word16_hiByte_loByte w)⟩
  | ldxAbs w => exact ⟨_, show lookup 0xAE = some _ from rfl, rfl, congrArg Instr.ldxAbs (word16_hiByte_loByte w)⟩
  | bcs b => exact ⟨_, show lookup 0xB0 = some _ from rfl, rfl, rfl⟩
  | ldaIndY b => exact ⟨_, show lookup 0xB1 = some _ from rfl, rfl, rfl⟩
  | ldyZpX b => exact ⟨_, show lookup 0xB4 = some _ from rfl, rfl, rfl⟩
  | ldaZpX b => exact ⟨_, show lookup 0xB5 = some _ from rfl, rfl, rfl⟩
  | ldxZpY b => exact ⟨_, show lookup 0xB6 = some _ from rfl, rfl, rfl⟩
  | clv => exact ⟨_, show lookup 0xB8 = some _ from rfl, rfl, rfl⟩
  | ldaAbsY w => exact ⟨_, show lookup 0xB9 = some _ from rfl, rfl, congrArg Instr.ldaAbsY (word16_hiByte_loByte w)⟩
  | tsx => exact ⟨_, show lookup 0xBA = some _ from rfl, rfl, rfl⟩
  | ldyAbsX w => exact ⟨_, show lookup 0xBC = some _ from rfl, rfl, congrArg Instr.ldyAbsX (word16_hiByte_loByte w)⟩
  | ldaAbsX w => exact ⟨_, show lookup 0xBD = some _ from rfl, rfl, congrArg Instr.ldaAbsX (word16_hiByte_loByte w)⟩
  | ldxAbsY w => exact ⟨_, show lookup 0xBE = some _ from rfl, rfl, congrArg Instr.ldxAbsY (word16_hiByte_loByte w)⟩
  | cpyImm b => exact ⟨_, show lookup 0xC0 = some _ from rfl, rfl, rfl⟩
  | cmpIndX b => exact ⟨_, show lookup 0xC1 = some _ from rfl, rfl, rfl⟩
  | cpyZp b => exact ⟨_, show lookup 0xC4 = some _ from rfl, rfl, rfl⟩
  | cmpZp b => exact ⟨_, show lookup 0xC5 = some _ from rfl, rfl, rfl⟩
  | decZp b => exact ⟨_, show lookup 0xC6 = some _ from rfl, rfl, rfl⟩
  | iny => exact ⟨_, show lookup 0xC8 = some _ from rfl, rfl, rfl⟩
  | cmpImm b => exact ⟨_, show lookup 0xC9 = some _ from rfl, rfl, rfl⟩
  | dex => exact ⟨_, show lookup 0xCA = some _ from rfl, rfl, rfl⟩
  | cpyAbs w => exact ⟨_, show lookup 0xCC = some _ from rfl, rfl, congrArg Instr.cpyAbs (word16_hiByte_loByte w)⟩
  | cmpAbs w => exact ⟨_, show lookup 0xCD = some _ from rfl, rfl, congrArg Instr.cmpAbs (word16_hiByte_loByte w)⟩
  | decAbs w => exact ⟨_, show lookup 0xCE = some _ from rfl, rfl, congrArg Instr.decAbs (word16_hiByte_loByte w)⟩
  | bne b => exact ⟨_, show lookup 0xD0 = some _ from rfl, rfl, rfl⟩
  | cmpIndY b => exact ⟨_, show lookup 0xD1 = some _ from rfl, rfl, rfl⟩
  | cmpZpX b => exact ⟨_, show lookup 0xD5 = some _ from rfl, rfl, rfl⟩
  | decZpX b => exact ⟨_, show lookup 0xD6 = some _ from rfl, rfl, rfl⟩
  | cld => exact ⟨_, show lookup 0xD8 = some _ from rfl, rfl, rfl⟩
  | cmpAbsY w => exact ⟨_, show lookup 0xD9 = some _ from rfl, rfl, congrArg Instr.cmpAbsY (word16_hiByte_loByte w)⟩
  | cmpAbsX w => exact ⟨_, show lookup 0xDD = some _ from rfl, rfl, congrArg Instr.cmpAbsX (word16_hiByte_loByte w)⟩
  | decAbsX w => exact ⟨_, show lookup 0xDE = some _ from rfl, rfl, congrArg Instr.decAbsX (word16_hiByte_loByte w)⟩
  | cpxImm b => exact ⟨_, show lookup 0xE0 = some _ from rfl, rfl, rfl⟩
  | sbcIndX b => exact ⟨_, show lookup 0xE1 = some _ from rfl, rfl, rfl⟩
  | cpxZp b => exact ⟨_, show lookup 0xE4 = some _ from rfl, rfl, rfl⟩
  | sbcZp b => exact ⟨_, show lookup 0xE5 = some _ from rfl, rfl, rfl⟩
  | incZp b => exact ⟨_, show lookup 0xE6 = some _ from rfl, rfl, rfl⟩
  | inx => exact ⟨_, show lookup 0xE8 = some _ from rfl, rfl, rfl⟩
  | sbcImm b => exact ⟨_, show lookup 0xE9 = some _ from rfl, rfl, rfl⟩
  | nop => exact ⟨_, show lookup 0xEA = some _ from rfl, rfl, rfl⟩
  | cpxAbs w => exact ⟨_, show lookup 0xEC = some _ from rfl, rfl, congrArg Instr.cpxAbs (word16_hiByte_loByte w)⟩
  | sbcAbs w => exact ⟨_, show lookup 0xED = some _ from rfl, rfl, congrArg Instr.sbcAbs (word16_hiByte_loByte w)⟩
  | incAbs w => exact ⟨_, show lookup 0xEE = some _ from rfl, rfl, congrArg Instr.incAbs (word16_hiByte_loByte w)⟩
  | beq b => exact ⟨_, show lookup 0xF0 = some _ from rfl, rfl, rfl⟩
  | sbcIndY b => exact ⟨_, show lookup 0xF1 = some _ from rfl, rfl, rfl⟩
  | sbcZpX b => exact ⟨_, show lookup 0xF5 = some _ from rfl, rfl, rfl⟩
  | incZpX b => exact ⟨_, show lookup 0xF6 = some _ from rfl, rfl, rfl⟩
  | sed => exact ⟨_, show lookup 0xF8 = some _ from rfl, rfl, rfl⟩
  | sbcAbsY w => exact ⟨_, show lookup 0xF9 = some _ from rfl, rfl, congrArg Instr.sbcAbsY (word16_hiByte_loByte w)⟩
  | sbcAbsX w => exact ⟨_, show lookup 0xFD = some _ from rfl, rfl, congrArg Instr.sbcAbsX (word16_hiByte_loByte w)⟩
  | incAbsX w => exact ⟨_, show lookup 0xFE = some _ from rfl, rfl, congrArg Instr.incAbsX (word16_hiByte_loByte w)⟩

/-! ### The fields of an element of the Decoder's output -/

section Fields
variable (r : Record) (a : Addr) (b : Byte)

@[simp] theorem DecodedItem.record_address : (DecodedItem.record r).address = r.address := rfl
@[simp] theorem DecodedItem.record_mnemonic : (DecodedItem.record r).mnemonic = .named r.mnemonic := rfl
@[simp] theorem DecodedItem.record_mode : (DecodedItem.record r).mode = r.mode := rfl
@[simp] theorem DecodedItem.record_size : (DecodedItem.record r).size = r.size := rfl
@[simp] theorem DecodedItem.record_raw : (DecodedItem.record r).raw = r.raw := rfl
@[simp] theorem DecodedItem.record_operand : (DecodedItem.record r).operand = r.operand := rfl
@[simp] theorem DecodedItem.record_target : (DecodedItem.record r).target = r.target := rfl
@[simp] theorem DecodedItem.placeholder_address : (DecodedItem.placeholder a b).address = a := rfl
@[simp] theorem DecodedItem.placeholder_mnemonic : (DecodedItem.placeholder a b).mnemonic = .undefined := rfl
@[simp] theorem DecodedItem.placeholder_mode : (DecodedItem.placeholder a b).mode = .implied := rfl
@[simp] theorem DecodedItem.placeholder_size : (DecodedItem.placeholder a b).size = 1 := rfl
@[simp] theorem DecodedItem.placeholder_raw : (DecodedItem.placeholder a b).raw = [b] := rfl
@[simp] theorem DecodedItem.placeholder_operand : (DecodedItem.placeholder a b).operand = .none := rfl
@[simp] theorem DecodedItem.placeholder_target : (DecodedItem.placeholder a b).target = .absent := rfl

end Fields

/-! ### The Decoder's loop -/

/-- Any fuel that covers the buffer gives the same output. -/
theorem decodeLoop_fuel {fuel fuel' a : Nat} {buf : List Byte} (h : buf.length ≤ fuel) (h' : buf.length ≤ fuel') :
    decodeLoop fuel a buf = decodeLoop fuel' a buf := by
  induction fuel generalizing fuel' a buf with
  | zero =>
    have : buf = [] := List.length_eq_zero_iff.1 (by omega)
    subst this
    cases fuel' <;> rfl
  | succ fuel ih =>
    cases buf with
    | nil => cases fuel' <;> rfl
    | cons op rest =>
      cases fuel' with
      | zero => simp at h'
      | succ fuel' =>
        simp only [List.length_cons] at h h'
        simp only [decodeLoop]
        split
        · rw [ih (fuel' := fuel') (by omega) (by omega)]
        · split
          · rfl
          · rename_i r _ _
            have := r.size_pos
            rw [ih (fuel' := fuel') (by rw [List.length_drop, List.length_cons]; omega)
              (by rw [List.length_drop, List.length_cons]; omega)]

theorem decodeCallWf_iff {buf : List Byte} {a : Nat} : decodeCallWf buf a = true ↔ a + buf.length ≤ 65536 := by
  simp [decodeCallWf, Config.memorySize]

theorem decodeBuffer_some {buf : List Byte} {a : Nat} (h : a + buf.length ≤ 65536) :
    decodeBuffer buf a = some (decodeLoop buf.length a buf) := if_pos (decodeCallWf_iff.2 h)

theorem decodeBuffer_none {buf : List Byte} {a : Nat} (h : 65536 < a + buf.length) : decodeBuffer buf a = none :=
  if_neg (by rw [decodeCallWf_iff]; omega)

/-! ### The fetch window -/

namespace Machine

theorem window_three (m : Memory) {k : Nat} (h : k + 3 ≤ 65536) : m.window 3 k = [m.read k, m.read (k + 1), m.read (k + 2)] := by
  simp only [Memory.window, Config.memorySize]
  rw [if_pos (by omega), if_pos (by omega), if_pos (by omega)]

theorem window_length (m : Memory) (n k : Nat) : (m.window n k).length = min n (65536 - k) := by
  induction n generalizing k with
  | zero => simp [Memory.window]
  | succ n ih =>
    simp only [Memory.window, Config.memorySize]
    split
    · rw [List.length_cons, ih]; omega
    · simp; omega

theorem window_get (m : Memory) {n k j : Nat} (hj : j < n) (hk : k + j < 65536) : (m.window n k)[j]? = some (m.read (k + j)) := by
  induction n generalizing k j with
  | zero => omega
  | succ n ih =>
    simp only [Memory.window, Config.memorySize]
    rw [if_pos (by omega)]
    cases j with
    | zero => rfl
    | succ j =>
      rw [List.getElem?_cons_succ, ih (by omega) (by omega)]
      congr 2
      omega

theorem fetchWindow_cons (s : State) : ∃ tl, s.fetchWindow = s.byteAt s.pc :: tl ∧ tl = s.mem.window 2 (s.pc.toNat + 1) :=
  ⟨_, if_pos s.pc.isLt, rfl⟩

end Machine

end Sys2Proof
end

