-- ==== Sys2Proof/Laws/State.lean ====
section
/-! SUPPORT. One lemma per field per update, so that no proof unfolds a record update. -/

namespace Sys2Proof.Machine

/-! ### A general register -/

@[simp] theorem State.a_setReg_a (s : State) (v : Byte) : (s.setReg .a v).a = v := rfl
@[simp] theorem State.x_setReg_a (s : State) (v : Byte) : (s.setReg .a v).x = s.x := rfl
@[simp] theorem State.y_setReg_a (s : State) (v : Byte) : (s.setReg .a v).y = s.y := rfl
@[simp] theorem State.a_setReg_x (s : State) (v : Byte) : (s.setReg .x v).a = s.a := rfl
@[simp] theorem State.x_setReg_x (s : State) (v : Byte) : (s.setReg .x v).x = v := rfl
@[simp] theorem State.y_setReg_x (s : State) (v : Byte) : (s.setReg .x v).y = s.y := rfl
@[simp] theorem State.a_setReg_y (s : State) (v : Byte) : (s.setReg .y v).a = s.a := rfl
@[simp] theorem State.x_setReg_y (s : State) (v : Byte) : (s.setReg .y v).x = s.x := rfl
@[simp] theorem State.y_setReg_y (s : State) (v : Byte) : (s.setReg .y v).y = v := rfl
@[simp] theorem State.sp_setReg (s : State) (r : Reg) (v : Byte) : (s.setReg r v).sp = s.sp := by cases r <;> rfl
@[simp] theorem State.pc_setReg (s : State) (r : Reg) (v : Byte) : (s.setReg r v).pc = s.pc := by cases r <;> rfl
@[simp] theorem State.n_setReg (s : State) (r : Reg) (v : Byte) : (s.setReg r v).n = s.n := by cases r <;> rfl
@[simp] theorem State.z_setReg (s : State) (r : Reg) (v : Byte) : (s.setReg r v).z = s.z := by cases r <;> rfl
@[simp] theorem State.c_setReg (s : State) (r : Reg) (v : Byte) : (s.setReg r v).c = s.c := by cases r <;> rfl
@[simp] theorem State.mem_setReg (s : State) (r : Reg) (v : Byte) : (s.setReg r v).mem = s.mem := by cases r <;> rfl
@[simp] theorem State.steps_setReg (s : State) (r : Reg) (v : Byte) : (s.setReg r v).steps = s.steps := by cases r <;> rfl
@[simp] theorem State.depth_setReg (s : State) (r : Reg) (v : Byte) : (s.setReg r v).depth = s.depth := by cases r <;> rfl
@[simp] theorem State.outcome_setReg (s : State) (r : Reg) (v : Byte) : (s.setReg r v).outcome = s.outcome := by cases r <;> rfl
@[simp] theorem State.stepBudget_setReg (s : State) (r : Reg) (v : Byte) : (s.setReg r v).stepBudget = s.stepBudget := by cases r <;> rfl
@[simp] theorem State.getReg_setReg (s : State) (r q : Reg) (v : Byte) :
    (s.setReg r v).getReg q = if q = r then v else s.getReg q := by cases r <;> cases q <;> rfl

/-! ### Memory -/

@[simp] theorem State.a_store (s : State) (k : Addr) (v : Byte) : (s.store k v).a = s.a := rfl
@[simp] theorem State.x_store (s : State) (k : Addr) (v : Byte) : (s.store k v).x = s.x := rfl
@[simp] theorem State.y_store (s : State) (k : Addr) (v : Byte) : (s.store k v).y = s.y := rfl
@[simp] theorem State.sp_store (s : State) (k : Addr) (v : Byte) : (s.store k v).sp = s.sp := rfl
@[simp] theorem State.pc_store (s : State) (k : Addr) (v : Byte) : (s.store k v).pc = s.pc := rfl
@[simp] theorem State.n_store (s : State) (k : Addr) (v : Byte) : (s.store k v).n = s.n := rfl
@[simp] theorem State.z_store (s : State) (k : Addr) (v : Byte) : (s.store k v).z = s.z := rfl
@[simp] theorem State.c_store (s : State) (k : Addr) (v : Byte) : (s.store k v).c = s.c := rfl
@[simp] theorem State.mem_store (s : State) (k : Addr) (v : Byte) : (s.store k v).mem = s.mem.write k.toNat v := rfl
@[simp] theorem State.steps_store (s : State) (k : Addr) (v : Byte) : (s.store k v).steps = s.steps := rfl
@[simp] theorem State.depth_store (s : State) (k : Addr) (v : Byte) : (s.store k v).depth = s.depth := rfl
@[simp] theorem State.outcome_store (s : State) (k : Addr) (v : Byte) : (s.store k v).outcome = s.outcome := rfl
@[simp] theorem State.stepBudget_store (s : State) (k : Addr) (v : Byte) : (s.store k v).stepBudget = s.stepBudget := rfl

/-! ### The stack -/

@[simp] theorem State.a_push (s : State) (v : Byte) : (s.push v).a = s.a := rfl
@[simp] theorem State.x_push (s : State) (v : Byte) : (s.push v).x = s.x := rfl
@[simp] theorem State.y_push (s : State) (v : Byte) : (s.push v).y = s.y := rfl
@[simp] theorem State.sp_push (s : State) (v : Byte) : (s.push v).sp = s.sp - 1 := rfl
@[simp] theorem State.pc_push (s : State) (v : Byte) : (s.push v).pc = s.pc := rfl
@[simp] theorem State.n_push (s : State) (v : Byte) : (s.push v).n = s.n := rfl
@[simp] theorem State.z_push (s : State) (v : Byte) : (s.push v).z = s.z := rfl
@[simp] theorem State.c_push (s : State) (v : Byte) : (s.push v).c = s.c := rfl
@[simp] theorem State.mem_push (s : State) (v : Byte) : (s.push v).mem = s.mem.write (stackAddr s.sp).toNat v := rfl
@[simp] theorem State.steps_push (s : State) (v : Byte) : (s.push v).steps = s.steps := rfl
@[simp] theorem State.depth_push (s : State) (v : Byte) : (s.push v).depth = s.depth := rfl
@[simp] theorem State.outcome_push (s : State) (v : Byte) : (s.push v).outcome = s.outcome := rfl
@[simp] theorem State.stepBudget_push (s : State) (v : Byte) : (s.push v).stepBudget = s.stepBudget := rfl

@[simp] theorem State.a_pull (s : State) : (s.pull).a = s.a := rfl
@[simp] theorem State.x_pull (s : State) : (s.pull).x = s.x := rfl
@[simp] theorem State.y_pull (s : State) : (s.pull).y = s.y := rfl
@[simp] theorem State.sp_pull (s : State) : (s.pull).sp = s.sp + 1 := rfl
@[simp] theorem State.pc_pull (s : State) : (s.pull).pc = s.pc := rfl
@[simp] theorem State.n_pull (s : State) : (s.pull).n = s.n := rfl
@[simp] theorem State.z_pull (s : State) : (s.pull).z = s.z := rfl
@[simp] theorem State.c_pull (s : State) : (s.pull).c = s.c := rfl
@[simp] theorem State.mem_pull (s : State) : (s.pull).mem = s.mem := rfl
@[simp] theorem State.steps_pull (s : State) : (s.pull).steps = s.steps := rfl
@[simp] theorem State.depth_pull (s : State) : (s.pull).depth = s.depth := rfl
@[simp] theorem State.outcome_pull (s : State) : (s.pull).outcome = s.outcome := rfl
@[simp] theorem State.stepBudget_pull (s : State) : (s.pull).stepBudget = s.stepBudget := rfl

/-! ### Flags -/

@[simp] theorem State.a_setNZ (s : State) (v : Byte) : (s.setNZ v).a = s.a := rfl
@[simp] theorem State.x_setNZ (s : State) (v : Byte) : (s.setNZ v).x = s.x := rfl
@[simp] theorem State.y_setNZ (s : State) (v : Byte) : (s.setNZ v).y = s.y := rfl
@[simp] theorem State.sp_setNZ (s : State) (v : Byte) : (s.setNZ v).sp = s.sp := rfl
@[simp] theorem State.pc_setNZ (s : State) (v : Byte) : (s.setNZ v).pc = s.pc := rfl
@[simp] theorem State.n_setNZ (s : State) (v : Byte) : (s.setNZ v).n = bit v 7 := rfl
@[simp] theorem State.z_setNZ (s : State) (v : Byte) : (s.setNZ v).z = decide (v = 0) := rfl
@[simp] theorem State.c_setNZ (s : State) (v : Byte) : (s.setNZ v).c = s.c := rfl
@[simp] theorem State.mem_setNZ (s : State) (v : Byte) : (s.setNZ v).mem = s.mem := rfl
@[simp] theorem State.steps_setNZ (s : State) (v : Byte) : (s.setNZ v).steps = s.steps := rfl
@[simp] theorem State.depth_setNZ (s : State) (v : Byte) : (s.setNZ v).depth = s.depth := rfl
@[simp] theorem State.outcome_setNZ (s : State) (v : Byte) : (s.setNZ v).outcome = s.outcome := rfl
@[simp] theorem State.stepBudget_setNZ (s : State) (v : Byte) : (s.setNZ v).stepBudget = s.stepBudget := rfl

@[simp] theorem State.a_setC (s : State) (b : Bool) : (s.setC b).a = s.a := rfl
@[simp] theorem State.x_setC (s : State) (b : Bool) : (s.setC b).x = s.x := rfl
@[simp] theorem State.y_setC (s : State) (b : Bool) : (s.setC b).y = s.y := rfl
@[simp] theorem State.sp_setC (s : State) (b : Bool) : (s.setC b).sp = s.sp := rfl
@[simp] theorem State.pc_setC (s : State) (b : Bool) : (s.setC b).pc = s.pc := rfl
@[simp] theorem State.n_setC (s : State) (b : Bool) : (s.setC b).n = s.n := rfl
@[simp] theorem State.z_setC (s : State) (b : Bool) : (s.setC b).z = s.z := rfl
@[simp] theorem State.c_setC (s : State) (b : Bool) : (s.setC b).c = b := rfl
@[simp] theorem State.mem_setC (s : State) (b : Bool) : (s.setC b).mem = s.mem := rfl
@[simp] theorem State.steps_setC (s : State) (b : Bool) : (s.setC b).steps = s.steps := rfl
@[simp] theorem State.depth_setC (s : State) (b : Bool) : (s.setC b).depth = s.depth := rfl
@[simp] theorem State.outcome_setC (s : State) (b : Bool) : (s.setC b).outcome = s.outcome := rfl
@[simp] theorem State.stepBudget_setC (s : State) (b : Bool) : (s.setC b).stepBudget = s.stepBudget := rfl

/-! ### An outcome raised -/

@[simp] theorem State.a_raised (s : State) (o : RunOutcome) : (s.raised o).a = s.a := rfl
@[simp] theorem State.x_raised (s : State) (o : RunOutcome) : (s.raised o).x = s.x := rfl
@[simp] theorem State.y_raised (s : State) (o : RunOutcome) : (s.raised o).y = s.y := rfl
@[simp] theorem State.sp_raised (s : State) (o : RunOutcome) : (s.raised o).sp = s.sp := rfl
@[simp] theorem State.pc_raised (s : State) (o : RunOutcome) : (s.raised o).pc = s.pc := rfl
@[simp] theorem State.n_raised (s : State) (o : RunOutcome) : (s.raised o).n = s.n := rfl
@[simp] theorem State.z_raised (s : State) (o : RunOutcome) : (s.raised o).z = s.z := rfl
@[simp] theorem State.c_raised (s : State) (o : RunOutcome) : (s.raised o).c = s.c := rfl
@[simp] theorem State.mem_raised (s : State) (o : RunOutcome) : (s.raised o).mem = s.mem := rfl
@[simp] theorem State.steps_raised (s : State) (o : RunOutcome) : (s.raised o).steps = (if o = .returned then s.steps + 1 else s.steps) := rfl
@[simp] theorem State.depth_raised (s : State) (o : RunOutcome) : (s.raised o).depth = s.depth := rfl
@[simp] theorem State.outcome_raised (s : State) (o : RunOutcome) : (s.raised o).outcome = o := rfl
@[simp] theorem State.stepBudget_raised (s : State) (o : RunOutcome) : (s.raised o).stepBudget = s.stepBudget := rfl

end Sys2Proof.Machine
end

