-- ==== Sys2Proof/Laws/Ops.lean ====
section
/-! SUPPORT. What each shared operation does: its equation where its check passes and where it fails, and once, for the proofs
that look at a next state, everything it can do. -/

namespace Sys2Proof.Machine

theorem result_next_inj {s t : State} : (Host.Outcome.next s : Result) = .next t ↔ s = t :=
  ⟨fun h => by injection h, fun h => by rw [h]⟩

theorem raise_eq (o : RunOutcome) (s : State) : raise o s = .next (s.raised o) := rfl

theorem commit_eq (s : State) : commit s = .next { s with steps := s.steps + 1 } := rfl

/-! ### The address-space check -/

theorem withAddress_in {addr : Int} {s : State} {k : Addr → Result} (h₀ : 0 ≤ addr) (h₁ : addr ≤ 65535) :
    withAddress addr s k = k (BitVec.ofNat 16 addr.toNat) := if_pos ⟨h₀, h₁⟩

theorem withAddress_out {addr : Int} {s : State} {k : Addr → Result} (h : addr < 0 ∨ 65535 < addr) :
    withAddress addr s k = .next (s.raised (.addressSpaceViolation addr s.pc)) := if_neg (by omega)

theorem withAddress_nat {n : Nat} {s : State} {k : Addr → Result} (h : n ≤ 65535) :
    withAddress (n : Int) s k = k (BitVec.ofNat 16 n) := by
  rw [withAddress_in (by omega) (by omega)]
  simp

theorem withAddress_cases {addr : Int} {s t : State} {k : Addr → Result} (h : withAddress addr s k = .next t) :
    (0 ≤ addr ∧ addr ≤ 65535 ∧ k (BitVec.ofNat 16 addr.toNat) = .next t) ∨
      ((addr < 0 ∨ 65535 < addr) ∧ t = s.raised (.addressSpaceViolation addr s.pc)) := by
  by_cases hc : 0 ≤ addr ∧ addr ≤ 65535
  · rw [withAddress_in hc.1 hc.2] at h
    exact .inl ⟨hc.1, hc.2, h⟩
  · have hc : addr < 0 ∨ 65535 < addr := by omega
    rw [withAddress_out hc] at h
    exact .inr ⟨hc, (result_next_inj.1 h).symm⟩

/-! ### Operand bytes -/

/-- The first operand byte out of range is always the one at 65536. -/
theorem missingOperand_eq (size : Nat) (s : State) (h₁ : 1 ≤ size) (h₃ : size ≤ 3) :
    missingOperand size s = if 65536 < s.pc.toNat + size then some 65536 else none := by
  have := s.pc.isLt
  unfold missingOperand
  split
  · rw [if_pos (by omega)]
    congr 1
    omega
  · split
    · rw [if_pos (by omega)]
      congr 1
      omega
    · rw [if_neg (by omega)]

theorem withOperandBytes_in {size : Nat} {s : State} {k : Result} (h₁ : 1 ≤ size) (h₃ : size ≤ 3)
    (h : BytesInSpace size s) : withOperandBytes size s k = k := by
  rw [withOperandBytes, missingOperand_eq size s h₁ h₃, if_neg (by omega)]

theorem withOperandBytes_out {size : Nat} {s : State} {k : Result} (h₁ : 1 ≤ size) (h₃ : size ≤ 3)
    (h : 65536 < s.pc.toNat + size) :
    withOperandBytes size s k = .next (s.raised (.addressSpaceViolation 65536 s.pc)) := by
  rw [withOperandBytes, missingOperand_eq size s h₁ h₃, if_pos h]
  rfl

theorem withOperandBytes_cases {size : Nat} {s t : State} {k : Result} (h₁ : 1 ≤ size) (h₃ : size ≤ 3)
    (h : withOperandBytes size s k = .next t) :
    (BytesInSpace size s ∧ k = .next t) ∨
      (65536 < s.pc.toNat + size ∧ t = s.raised (.addressSpaceViolation 65536 s.pc)) := by
  by_cases hc : 65536 < s.pc.toNat + size
  · rw [withOperandBytes_out h₁ h₃ hc] at h
    exact .inr ⟨hc, (result_next_inj.1 h).symm⟩
  · have hc : BytesInSpace size s := by omega
    rw [withOperandBytes_in h₁ h₃ hc] at h
    exact .inl ⟨hc, h⟩

/-! ### Advancing -/

/-- The state after a committed instruction of this size whose other effects are in `s'`. -/
abbrev advanced (size : Nat) (s s' : State) : State :=
  { s' with pc := s.pc + BitVec.ofNat 16 size, steps := s'.steps + 1 }

theorem finish_in {size : Nat} {s s' : State} (h : CanAdvance size s) :
    finish size s s' = .next (advanced size s s') := by
  have hp : BitVec.ofNat 16 ((s.pc.toNat : Int) + (size : Int)).toNat = s.pc + BitVec.ofNat 16 size := by
    apply BitVec.eq_of_toNat_eq
    rw [BitVec.toNat_add, BitVec.toNat_ofNat, BitVec.toNat_ofNat]
    omega
  rw [finish, withAddress_in (by omega) (by omega), hp, commit_eq]

theorem finish_out {size : Nat} {s s' : State} (h : 65535 < s.pc.toNat + size) :
    finish size s s' = .next (s.raised (.addressSpaceViolation ((s.pc.toNat : Int) + size) s.pc)) := by
  rw [finish, withAddress_out (by omega)]

theorem finish_cases {size : Nat} {s s' t : State} (h : finish size s s' = .next t) :
    (CanAdvance size s ∧ t = advanced size s s') ∨
      (65535 < s.pc.toNat + size ∧ t = s.raised (.addressSpaceViolation ((s.pc.toNat : Int) + size) s.pc)) := by
  by_cases hc : CanAdvance size s
  · rw [finish_in hc] at h
    exact .inl ⟨hc, (result_next_inj.1 h).symm⟩
  · have hc : 65535 < s.pc.toNat + size := by omega
    rw [finish_out hc] at h
    exact .inr ⟨hc, (result_next_inj.1 h).symm⟩

/-! ### Operands -/

theorem memRefSize_pos (r : MemRef) : 1 ≤ memRefSize r := by cases r <;> simp [memRefSize, MemRef.mode, Mode.size]
theorem memRefSize_le (r : MemRef) : memRefSize r ≤ 3 := by cases r <;> simp [memRefSize, MemRef.mode, Mode.size]
theorem sourceSize_pos (src : Source) : 1 ≤ sourceSize src := by
  cases src with
  | imm b => simp [sourceSize, Source.mode, Mode.size]
  | mem r => exact memRefSize_pos r
theorem sourceSize_le (src : Source) : sourceSize src ≤ 3 := by
  cases src with
  | imm b => simp [sourceSize, Source.mode, Mode.size]
  | mem r => exact memRefSize_le r
theorem placeSize_pos (p : Place) : 1 ≤ placeSize p := by
  cases p with
  | acc => decide
  | mem r => exact memRefSize_pos r
theorem placeSize_le (p : Place) : placeSize p ≤ 3 := by
  cases p with
  | acc => decide
  | mem r => exact memRefSize_le r

theorem zpPointer_le (p : Byte) (s : State) : zpPointer p s ≤ 65535 := by
  have h₀ := (s.mem.read p.toNat).isLt
  have h₁ := (s.mem.read (p + 1).toNat).isLt
  unfold zpPointer
  omega

/-- No effective address exceeds 0x100FE (spec/60_exceptions.md R201). -/
theorem effectiveAddress_le (r : MemRef) (s : State) : effectiveAddress r s ≤ 0x100FE := by
  have hx := s.x.isLt
  have hy := s.y.isLt
  cases r with
  | zp b => have := b.isLt; simp only [effectiveAddress]; omega
  | zpX b => simp only [effectiveAddress]; omega
  | zpY b => simp only [effectiveAddress]; omega
  | abs w => have := w.isLt; simp only [effectiveAddress]; omega
  | absX w => have := w.isLt; simp only [effectiveAddress]; omega
  | absY w => have := w.isLt; simp only [effectiveAddress]; omega
  | indX b => have := zpPointer_le (b + s.x) s; simp only [effectiveAddress]; omega
  | indY b => have := zpPointer_le b s; simp only [effectiveAddress]; omega

theorem byteAt_ofNat {n : Nat} (s : State) (h : n ≤ 65535) : s.byteAt (BitVec.ofNat 16 n) = s.mem.read n := by
  rw [State.byteAt, BitVec.toNat_ofNat, Nat.mod_eq_of_lt (by omega)]

theorem store_ofNat {n : Nat} (s : State) (v : Byte) (h : n ≤ 65535) :
    s.store (BitVec.ofNat 16 n) v = { s with mem := s.mem.write n v } := by
  rw [State.store, BitVec.toNat_ofNat, Nat.mod_eq_of_lt (by omega)]

theorem withEffectiveAddress_in {r : MemRef} {s : State} {k : Addr → Result} (h : effectiveAddress r s ≤ 65535) :
    withEffectiveAddress r s k = k (BitVec.ofNat 16 (effectiveAddress r s)) := withAddress_nat h

theorem withEffectiveAddress_out {r : MemRef} {s : State} {k : Addr → Result} (h : 65535 < effectiveAddress r s) :
    withEffectiveAddress r s k = .next (s.raised (.addressSpaceViolation (effectiveAddress r s) s.pc)) :=
  withAddress_out (.inr (by omega))

theorem withEffectiveAddress_cases {r : MemRef} {s t : State} {k : Addr → Result}
    (h : withEffectiveAddress r s k = .next t) :
    (effectiveAddress r s ≤ 65535 ∧ k (BitVec.ofNat 16 (effectiveAddress r s)) = .next t) ∨
      (65535 < effectiveAddress r s ∧ t = s.raised (.addressSpaceViolation (effectiveAddress r s) s.pc)) := by
  rcases withAddress_cases h with ⟨_, h₁, hk⟩ | ⟨ho, ht⟩
  · exact .inl ⟨by omega, by simpa using hk⟩
  · exact .inr ⟨by omega, ht⟩

theorem withOperand_in {src : Source} {s : State} {k : Byte → Result} {m : Byte} (h : operandValue src s = some m) :
    withOperand src s k = k m := by
  cases src with
  | imm b => cases h; rfl
  | mem r =>
    simp only [operandValue] at h
    split at h
    · rename_i he
      cases h
      rw [withOperand, withEffectiveAddress_in he, byteAt_ofNat s he]
    · cases h

theorem withOperand_cases {src : Source} {s t : State} {k : Byte → Result} (h : withOperand src s k = .next t) :
    (∃ m, operandValue src s = some m ∧ k m = .next t) ∨
      (∃ r, src = .mem r ∧ 65535 < effectiveAddress r s ∧
        t = s.raised (.addressSpaceViolation (effectiveAddress r s) s.pc)) := by
  cases src with
  | imm b => exact .inl ⟨b, rfl, h⟩
  | mem r =>
    rcases withEffectiveAddress_cases h with ⟨he, hk⟩ | ⟨ho, ht⟩
    · exact .inl ⟨s.mem.read (effectiveAddress r s), if_pos he, by rwa [byteAt_ofNat s he] at hk⟩
    · exact .inr ⟨r, rfl, ho, ht⟩

/-! ### The stack -/

theorem stackAddr_toNat (sp : Byte) : (stackAddr sp).toNat = 0x100 + sp.toNat := by
  have := sp.isLt
  simp only [stackAddr, Config.stackPage, BitVec.toNat_ofNat]
  omega

/-! ### Words -/

theorem word16_toNat (hi lo : Byte) : (word16 hi lo).toNat = hi.toNat * 256 + lo.toNat := by
  have := hi.isLt
  have := lo.isLt
  rw [word16, BitVec.toNat_ofNat]
  omega

theorem word16_hi_lo (w : Addr) : word16 (hiByte w) (loByte w) = w := by
  have := w.isLt
  apply BitVec.eq_of_toNat_eq
  rw [word16_toNat, hiByte, loByte, BitVec.toNat_ofNat, BitVec.toNat_ofNat]
  omega

theorem sext8_eq (b : Byte) : sext8 b = b.toInt := by revert b; decide

theorem sext8_bounds (b : Byte) : -128 ≤ sext8 b ∧ sext8 b ≤ 127 := by
  have := b.isLt
  unfold sext8
  split <;> omega

end Sys2Proof.Machine
end

