-- ==== Sys2Proof/Laws/Shapes.lean ====
section
/-! SUPPORT. What each shape of Machine/Shapes.lean does: its next state where every check passes, where each check fails, and once
everything it can do. The three lemmas with a continuation `f` serve every shape with that order of checks. -/

namespace Sys2Proof.Machine

/-! ### The violations every instruction can raise -/

theorem violation_intro {s t : State} {addr : Int} (h : addr < 0 ∨ 65535 < addr) (h₀ : -126 ≤ addr) (h₁ : addr ≤ 0x100FE)
    (ht : t = s.raised (.addressSpaceViolation addr s.pc)) : Violation s t := ⟨addr, h, h₀, h₁, ht⟩

/-- Nothing but `outcome` differs after a violation (spec/60_exceptions.md R203). -/
theorem Violation.eq {s t : State} (h : Violation s t) : t = { s with outcome := t.outcome } := by
  obtain ⟨addr, _, _, _, rfl⟩ := h
  rfl

theorem finish_violation {size : Nat} {s s' t : State} (h₃ : size ≤ 3) (h : finish size s s' = .next t) :
    (CanAdvance size s ∧ t = advanced size s s') ∨ Violation s t := by
  have := s.pc.isLt
  rcases finish_cases h with h | ⟨ho, ht⟩
  · exact .inl h
  · exact .inr (violation_intro (by omega) (by omega) (by omega) ht)

/-! ### An operand, then the advance: loads, accumulator operations, comparisons -/

theorem withOperandFinish_in {src : Source} {s : State} {m : Byte} {f : Byte → State} (hc : CanAdvance (sourceSize src) s)
    (hm : operandValue src s = some m) :
    (withOperandBytes (sourceSize src) s <| withOperand src s fun m => finish (sourceSize src) s (f m)) =
      .next (advanced (sourceSize src) s (f m)) := by
  rw [withOperandBytes_in (sourceSize_pos src) (sourceSize_le src) (by omega), withOperand_in hm, finish_in hc]

theorem withOperandFinish_cases {src : Source} {s t : State} {f : Byte → State}
    (h : (withOperandBytes (sourceSize src) s <| withOperand src s fun m => finish (sourceSize src) s (f m)) = .next t) :
    (CanAdvance (sourceSize src) s ∧ ∃ m, operandValue src s = some m ∧ t = advanced (sourceSize src) s (f m)) ∨
      Violation s t := by
  have h₃ := sourceSize_le src
  rcases withOperandBytes_cases (sourceSize_pos src) h₃ h with ⟨_, h⟩ | ⟨_, ht⟩
  · rcases withOperand_cases h with ⟨m, hm, h⟩ | ⟨r, _, ho, ht⟩
    · rcases finish_violation h₃ h with ⟨hc, ht⟩ | hv
      · exact .inl ⟨hc, m, hm, ht⟩
      · exact .inr hv
    · have := effectiveAddress_le r s
      exact .inr (violation_intro (by omega) (by omega) (by omega) ht)
  · exact .inr (violation_intro (by omega) (by omega) (by omega) ht)

/-! ### An effective address, then the advance: stores and read-modify-writes -/

theorem withEffectiveAddressFinish_in {r : MemRef} {s : State} {f : Addr → State} (hc : CanAdvance (memRefSize r) s)
    (he : effectiveAddress r s ≤ 65535) :
    (withOperandBytes (memRefSize r) s <| withEffectiveAddress r s fun ea => finish (memRefSize r) s (f ea)) =
      .next (advanced (memRefSize r) s (f (BitVec.ofNat 16 (effectiveAddress r s)))) := by
  rw [withOperandBytes_in (memRefSize_pos r) (memRefSize_le r) (by omega), withEffectiveAddress_in he, finish_in hc]

theorem withEffectiveAddressFinish_cases {r : MemRef} {s t : State} {f : Addr → State}
    (h : (withOperandBytes (memRefSize r) s <| withEffectiveAddress r s fun ea => finish (memRefSize r) s (f ea)) = .next t) :
    (CanAdvance (memRefSize r) s ∧ effectiveAddress r s ≤ 65535 ∧
        t = advanced (memRefSize r) s (f (BitVec.ofNat 16 (effectiveAddress r s)))) ∨ Violation s t := by
  have h₃ := memRefSize_le r
  rcases withOperandBytes_cases (memRefSize_pos r) h₃ h with ⟨_, h⟩ | ⟨_, ht⟩
  · rcases withEffectiveAddress_cases h with ⟨he, h⟩ | ⟨ho, ht⟩
    · rcases finish_violation h₃ h with ⟨hc, ht⟩ | hv
      · exact .inl ⟨hc, he, ht⟩
      · exact .inr hv
    · have := effectiveAddress_le r s
      exact .inr (violation_intro (by omega) (by omega) (by omega) ht)
  · exact .inr (violation_intro (by omega) (by omega) (by omega) ht)

/-! ### Where each check of a memory operand fails -/

/-- An operand byte is missing: the first check, whatever follows it. -/
theorem withOperandBytes_missing {size : Nat} {s : State} {k : Result} (h₁ : 1 ≤ size) (h₃ : size ≤ 3)
    (h : 65536 < s.pc.toNat + size) :
    withOperandBytes size s k = .next (s.raised (.addressSpaceViolation 65536 s.pc)) := withOperandBytes_out h₁ h₃ h

/-- The effective address is outside: the second check, whatever follows it. -/
theorem withEffectiveAddressFinish_out {r : MemRef} {s : State} {k : Addr → Result} (hb : BytesInSpace (memRefSize r) s)
    (ho : 65535 < effectiveAddress r s) :
    (withOperandBytes (memRefSize r) s <| withEffectiveAddress r s k) =
      .next (s.raised (.addressSpaceViolation (effectiveAddress r s) s.pc)) := by
  rw [withOperandBytes_in (memRefSize_pos r) (memRefSize_le r) hb, withEffectiveAddress_out ho]

/-- There is no next address: the last check. -/
theorem finish_atEnd {size : Nat} {s s' : State} (h : s.pc.toNat + size = 65536) :
    finish size s s' = .next (s.raised (.addressSpaceViolation 65536 s.pc)) := by
  rw [finish_out (by omega)]
  congr 3
  omega

/-! ### The shapes -/

theorem loadReg_next {r : Reg} {src : Source} {s : State} {m : Byte} (hc : CanAdvance (sourceSize src) s)
    (hm : operandValue src s = some m) :
    loadReg r src s = .next (advanced (sourceSize src) s ((s.setReg r m).setNZ m)) :=
  withOperandFinish_in (f := fun m => (s.setReg r m).setNZ m) hc hm

theorem loadReg_cases {r : Reg} {src : Source} {s t : State} (h : loadReg r src s = .next t) :
    (CanAdvance (sourceSize src) s ∧ ∃ m, operandValue src s = some m ∧
      t = advanced (sourceSize src) s ((s.setReg r m).setNZ m)) ∨ Violation s t := withOperandFinish_cases h

theorem accumulate_next {op : Byte → Byte → Bool → Byte × Bool} {src : Source} {s : State} {m : Byte}
    (hc : CanAdvance (sourceSize src) s) (hm : operandValue src s = some m) :
    accumulate op src s = .next (advanced (sourceSize src) s
      (((s.setReg .a (op s.a m s.c).1).setNZ (op s.a m s.c).1).setC (op s.a m s.c).2)) :=
  withOperandFinish_in (f := fun m => ((s.setReg .a (op s.a m s.c).1).setNZ (op s.a m s.c).1).setC (op s.a m s.c).2) hc hm

theorem accumulate_cases {op : Byte → Byte → Bool → Byte × Bool} {src : Source} {s t : State}
    (h : accumulate op src s = .next t) :
    (CanAdvance (sourceSize src) s ∧ ∃ m, operandValue src s = some m ∧
      t = advanced (sourceSize src) s
        (((s.setReg .a (op s.a m s.c).1).setNZ (op s.a m s.c).1).setC (op s.a m s.c).2)) ∨ Violation s t :=
  withOperandFinish_cases (f := fun m => ((s.setReg .a (op s.a m s.c).1).setNZ (op s.a m s.c).1).setC (op s.a m s.c).2) h

theorem compareReg_next {r : Reg} {src : Source} {s : State} {m : Byte} (hc : CanAdvance (sourceSize src) s)
    (hm : operandValue src s = some m) :
    compareReg r src s = .next (advanced (sourceSize src) s
      ((s.setNZ (difference (s.getReg r) m).1).setC (difference (s.getReg r) m).2)) :=
  withOperandFinish_in (f := fun m => (s.setNZ (difference (s.getReg r) m).1).setC (difference (s.getReg r) m).2) hc hm

theorem compareReg_cases {r : Reg} {src : Source} {s t : State} (h : compareReg r src s = .next t) :
    (CanAdvance (sourceSize src) s ∧ ∃ m, operandValue src s = some m ∧
      t = advanced (sourceSize src) s
        ((s.setNZ (difference (s.getReg r) m).1).setC (difference (s.getReg r) m).2)) ∨ Violation s t :=
  withOperandFinish_cases (f := fun m => (s.setNZ (difference (s.getReg r) m).1).setC (difference (s.getReg r) m).2) h

theorem storeByte_next {v : Byte} {r : MemRef} {s : State} (hc : CanAdvance (memRefSize r) s)
    (he : effectiveAddress r s ≤ 65535) :
    storeByte v r s = .next (advanced (memRefSize r) s { s with mem := s.mem.write (effectiveAddress r s) v }) := by
  rw [← store_ofNat s v he]
  exact withEffectiveAddressFinish_in (f := fun ea => s.store ea v) hc he

theorem storeByte_cases {v : Byte} {r : MemRef} {s t : State} (h : storeByte v r s = .next t) :
    (CanAdvance (memRefSize r) s ∧ effectiveAddress r s ≤ 65535 ∧
      t = advanced (memRefSize r) s { s with mem := s.mem.write (effectiveAddress r s) v }) ∨ Violation s t := by
  rcases withEffectiveAddressFinish_cases (f := fun ea => s.store ea v) h with ⟨hc, he, ht⟩ | hv
  · rw [store_ofNat s v he] at ht
    exact .inl ⟨hc, he, ht⟩
  · exact .inr hv

theorem moveTo_next {r : Reg} {v : Byte} {s : State} (hc : CanAdvance 1 s) :
    moveTo r v s = .next (advanced 1 s ((s.setReg r v).setNZ v)) := finish_in hc

theorem moveTo_cases {r : Reg} {v : Byte} {s t : State} (h : moveTo r v s = .next t) :
    (CanAdvance 1 s ∧ t = advanced 1 s ((s.setReg r v).setNZ v)) ∨ Violation s t := finish_violation (by omega) h

/-- What a read-modify-write leaves in the accumulator form, before the advance. -/
abbrev modifiedAcc (op : Byte → Bool → Byte × Bool) (s : State) : State :=
  ((s.setReg .a (op s.a s.c).1).setNZ (op s.a s.c).1).setC (op s.a s.c).2

/-- What a read-modify-write leaves in a memory form, before the advance. -/
abbrev modifiedMem (op : Byte → Bool → Byte × Bool) (r : MemRef) (s : State) : State :=
  let p := op (s.mem.read (effectiveAddress r s)) s.c
  (({ s with mem := s.mem.write (effectiveAddress r s) p.1 } : State).setNZ p.1).setC p.2

theorem modifyPlace_acc_eq (op : Byte → Bool → Byte × Bool) (s : State) :
    modifyPlace op .acc s = finish 1 s (modifiedAcc op s) := by
  have := s.pc.isLt
  exact withOperandBytes_in (by decide) (by decide) (show s.pc.toNat + 1 ≤ 65536 by omega)

theorem modifyPlace_acc_next {op : Byte → Bool → Byte × Bool} {s : State} (hc : CanAdvance 1 s) :
    modifyPlace op .acc s = .next (advanced 1 s (modifiedAcc op s)) := by
  rw [modifyPlace_acc_eq, finish_in hc]

theorem modifyPlace_acc_cases {op : Byte → Bool → Byte × Bool} {s t : State} (h : modifyPlace op .acc s = .next t) :
    (CanAdvance 1 s ∧ t = advanced 1 s (modifiedAcc op s)) ∨ Violation s t := by
  rw [modifyPlace_acc_eq] at h
  exact finish_violation (by omega) h

theorem modifyPlace_mem_next {op : Byte → Bool → Byte × Bool} {r : MemRef} {s : State} (hc : CanAdvance (memRefSize r) s)
    (he : effectiveAddress r s ≤ 65535) :
    modifyPlace op (.mem r) s = .next (advanced (memRefSize r) s (modifiedMem op r s)) := by
  have h := withEffectiveAddressFinish_in
    (f := fun ea => ((s.store ea (op (s.byteAt ea) s.c).1).setNZ (op (s.byteAt ea) s.c).1).setC (op (s.byteAt ea) s.c).2) hc he
  rw [byteAt_ofNat s he, store_ofNat s _ he] at h
  exact h

theorem modifyPlace_mem_cases {op : Byte → Bool → Byte × Bool} {r : MemRef} {s t : State}
    (h : modifyPlace op (.mem r) s = .next t) :
    (CanAdvance (memRefSize r) s ∧ effectiveAddress r s ≤ 65535 ∧
      t = advanced (memRefSize r) s (modifiedMem op r s)) ∨ Violation s t := by
  rcases withEffectiveAddressFinish_cases
    (f := fun ea => ((s.store ea (op (s.byteAt ea) s.c).1).setNZ (op (s.byteAt ea) s.c).1).setC (op (s.byteAt ea) s.c).2) h
    with ⟨hc, he, ht⟩ | hv
  · rw [byteAt_ofNat s he, store_ofNat s _ he] at ht
    exact .inl ⟨hc, he, ht⟩
  · exact .inr hv

theorem branchTarget_bounds (a : Addr) (d : Byte) : -126 ≤ branchTarget a d ∧ branchTarget a d ≤ 65664 := by
  have := a.isLt
  have := sext8_bounds d
  unfold branchTarget
  omega

/-- A taken branch whose target is in the address space. -/
theorem branch_taken {b : Byte} {s : State} (hb : BytesInSpace 2 s) (h₀ : 0 ≤ branchTarget s.pc b)
    (h₁ : branchTarget s.pc b ≤ 65535) :
    branch true b s = .next { s with pc := BitVec.ofNat 16 (branchTarget s.pc b).toNat, steps := s.steps + 1 } := by
  rw [branch, withOperandBytes_in (by omega) (by omega) hb, if_pos rfl, withAddress_in h₀ h₁, commit_eq]

theorem branch_notTaken {b : Byte} {s : State} (hc : CanAdvance 2 s) : branch false b s = .next (advanced 2 s s) := by
  rw [branch, withOperandBytes_in (by omega) (by omega) (by omega), if_neg (by decide), finish_in hc]

theorem branch_cases {taken : Bool} {b : Byte} {s t : State} (h : branch taken b s = .next t) :
    (taken = true ∧ BytesInSpace 2 s ∧ 0 ≤ branchTarget s.pc b ∧ branchTarget s.pc b ≤ 65535 ∧
        t = { s with pc := BitVec.ofNat 16 (branchTarget s.pc b).toNat, steps := s.steps + 1 }) ∨
      (taken = false ∧ CanAdvance 2 s ∧ t = advanced 2 s s) ∨ Violation s t := by
  rcases withOperandBytes_cases (by omega) (by omega) h with ⟨hb, h⟩ | ⟨_, ht⟩
  · cases taken with
    | true =>
      rw [if_pos rfl] at h
      rcases withAddress_cases h with ⟨h₀, h₁, h⟩ | ⟨ho, ht⟩
      · exact .inl ⟨rfl, hb, h₀, h₁, (result_next_inj.1 h).symm⟩
      · have := branchTarget_bounds s.pc b
        exact .inr (.inr (violation_intro ho (by omega) (by omega) ht))
    | false =>
      rw [if_neg (by decide)] at h
      rcases finish_violation (by omega) h with h | hv
      · exact .inr (.inl ⟨rfl, h⟩)
      · exact .inr (.inr hv)
  · exact .inr (.inr (violation_intro (by omega) (by omega) (by omega) ht))

theorem unsupported_eq (byte : Byte) (s : State) :
    unsupported byte s = .next { s with outcome := .unsupportedOpcode byte s.pc } := rfl

/-- The states a `Returned` and any other outcome leave. -/
theorem raised_returned (s : State) : s.raised .returned = { s with outcome := .returned, steps := s.steps + 1 } := rfl

theorem raised_other {s : State} {o : RunOutcome} (h : o ≠ .returned) : s.raised o = { s with outcome := o } := by
  simp only [State.raised, if_neg h]

end Sys2Proof.Machine
end

