-- ==== Sys2Proof/Laws/Exec.lean ====
section
/-! SUPPORT. What every instruction does, said once: `Does i s r` names the shape an instruction has with the operation, register and
operand it has it for, and `exec_does` says that `exec i s` is that shape. A proof about all instructions goes over the
seventeen shapes and never over the constructors. -/

namespace Sys2Proof.Machine

/-- The answer `r` of instruction `i` in state `s`, as a shape. -/
inductive Does (i : Instr) (s : State) : Result → Prop where
  | load (r : Reg) (src : Source) (hm : i.mnemonic = .lda ∧ r = .a ∨ i.mnemonic = .ldx ∧ r = .x ∨ i.mnemonic = .ldy ∧ r = .y)
      (hf : i.form.source? = some src) : Does i s (loadReg r src s)
  | store (v : Byte) (ref : MemRef)
      (hm : i.mnemonic = .sta ∧ v = s.a ∨ i.mnemonic = .stx ∧ v = s.x ∨ i.mnemonic = .sty ∧ v = s.y)
      (hf : i.form = .mem ref) : Does i s (storeByte v ref s)
  | move (r : Reg) (v : Byte)
      (hm : i.mnemonic = .tax ∧ r = .x ∧ v = s.a ∨ i.mnemonic = .tay ∧ r = .y ∧ v = s.a ∨
        i.mnemonic = .txa ∧ r = .a ∧ v = s.x ∨ i.mnemonic = .tya ∧ r = .a ∧ v = s.y ∨
        i.mnemonic = .tsx ∧ r = .x ∧ v = s.sp ∨
        i.mnemonic = .inx ∧ r = .x ∧ v = increment s.x ∨ i.mnemonic = .iny ∧ r = .y ∧ v = increment s.y ∨
        i.mnemonic = .dex ∧ r = .x ∧ v = decrement s.x ∨ i.mnemonic = .dey ∧ r = .y ∧ v = decrement s.y)
      (hf : i.form = .implied) : Does i s (moveTo r v s)
  | accumulate (op : Byte → Byte → Bool → Byte × Bool) (src : Source)
      (hm : i.mnemonic = .adc ∧ op = addWithCarry ∨ i.mnemonic = .sbc ∧ op = subWithBorrow ∨ i.mnemonic = .and ∧ op = bitAnd ∨
        i.mnemonic = .ora ∧ op = bitOr ∨ i.mnemonic = .eor ∧ op = bitXor)
      (hf : i.form.source? = some src) : Does i s (accumulate op src s)
  | compare (r : Reg) (src : Source) (hm : i.mnemonic = .cmp ∧ r = .a ∨ i.mnemonic = .cpx ∧ r = .x ∨ i.mnemonic = .cpy ∧ r = .y)
      (hf : i.form.source? = some src) : Does i s (compareReg r src s)
  | modify (op : Byte → Bool → Byte × Bool) (p : Place)
      (hm : i.mnemonic = .asl ∧ op = shiftLeft ∨ i.mnemonic = .lsr ∧ op = shiftRight ∨ i.mnemonic = .rol ∧ op = rotateLeft ∨
        i.mnemonic = .ror ∧ op = rotateRight ∨ i.mnemonic = .inc ∧ op = (fun v c => (increment v, c)) ∨
        i.mnemonic = .dec ∧ op = (fun v c => (decrement v, c)))
      (hf : i.form.place? = some p) : Does i s (modifyPlace op p s)
  | branch (taken : Bool) (b : Byte)
      (hm : i.mnemonic = .bcc ∧ taken = !s.c ∨ i.mnemonic = .bcs ∧ taken = s.c ∨ i.mnemonic = .beq ∧ taken = s.z ∨
        i.mnemonic = .bne ∧ taken = !s.z ∨ i.mnemonic = .bmi ∧ taken = s.n ∨ i.mnemonic = .bpl ∧ taken = !s.n)
      (hf : i.form = .rel b) : Does i s (branch taken b s)
  | txs (hi : i = .txs) : Does i s (finish 1 s { s with sp := s.x })
  | jmp (w : Addr) (hi : i = .jmpAbs w) : Does i s (execJmpAbs w s)
  | jsr (w : Addr) (hi : i = .jsr w) : Does i s (execJsr w s)
  | rts (hi : i = .rts) : Does i s (execRts s)
  | pha (hi : i = .pha) : Does i s (execPha s)
  | pla (hi : i = .pla) : Does i s (execPla s)
  | clc (hi : i = .clc) : Does i s (execClc s)
  | sec (hi : i = .sec) : Does i s (execSec s)
  | nop (hi : i = .nop) : Does i s (execNop s)
  | unsupported (hm : i.mnemonic ∈ [.bit, .brk, .rti, .php, .plp, .bvc, .bvs, .clv, .cld, .sed, .cli, .sei] ∨ i.mode = .indirect)
      : Does i s (unsupported i.opcode s)

theorem exec_does (i : Instr) (s : State) : Does i s (exec i s) := by
  cases i with
  | brk => exact .unsupported (by simp [Instr.mnemonic, Instr.mode, Instr.form, OperandForm.mode])
  | oraIndX b => exact .accumulate bitOr (.mem (.indX b)) (by simp [Instr.mnemonic]) rfl
  | oraZp b => exact .accumulate bitOr (.mem (.zp b)) (by simp [Instr.mnemonic]) rfl
  | aslZp b => exact .modify shiftLeft (.mem (.zp b)) (by simp [Instr.mnemonic]) rfl
  | php => exact .unsupported (by simp [Instr.mnemonic, Instr.mode, Instr.form, OperandForm.mode])
  | oraImm b => exact .accumulate bitOr (.imm b) (by simp [Instr.mnemonic]) rfl
  | aslAcc => exact .modify shiftLeft .acc (by simp [Instr.mnemonic]) rfl
  | oraAbs w => exact .accumulate bitOr (.mem (.abs w)) (by simp [Instr.mnemonic]) rfl
  | aslAbs w => exact .modify shiftLeft (.mem (.abs w)) (by simp [Instr.mnemonic]) rfl
  | bpl b => exact .branch (!s.n) b (by simp [Instr.mnemonic]) rfl
  | oraIndY b => exact .accumulate bitOr (.mem (.indY b)) (by simp [Instr.mnemonic]) rfl
  | oraZpX b => exact .accumulate bitOr (.mem (.zpX b)) (by simp [Instr.mnemonic]) rfl
  | aslZpX b => exact .modify shiftLeft (.mem (.zpX b)) (by simp [Instr.mnemonic]) rfl
  | clc => exact .clc rfl
  | oraAbsY w => exact .accumulate bitOr (.mem (.absY w)) (by simp [Instr.mnemonic]) rfl
  | oraAbsX w => exact .accumulate bitOr (.mem (.absX w)) (by simp [Instr.mnemonic]) rfl
  | aslAbsX w => exact .modify shiftLeft (.mem (.absX w)) (by simp [Instr.mnemonic]) rfl
  | jsr w => exact .jsr w rfl
  | andIndX b => exact .accumulate bitAnd (.mem (.indX b)) (by simp [Instr.mnemonic]) rfl
  | bitZp b => exact .unsupported (by simp [Instr.mnemonic, Instr.mode, Instr.form, OperandForm.mode])
  | andZp b => exact .accumulate bitAnd (.mem (.zp b)) (by simp [Instr.mnemonic]) rfl
  | rolZp b => exact .modify rotateLeft (.mem (.zp b)) (by simp [Instr.mnemonic]) rfl
  | plp => exact .unsupported (by simp [Instr.mnemonic, Instr.mode, Instr.form, OperandForm.mode])
  | andImm b => exact .accumulate bitAnd (.imm b) (by simp [Instr.mnemonic]) rfl
  | rolAcc => exact .modify rotateLeft .acc (by simp [Instr.mnemonic]) rfl
  | bitAbs w => exact .unsupported (by simp [Instr.mnemonic, Instr.mode, Instr.form, OperandForm.mode])
  | andAbs w => exact .accumulate bitAnd (.mem (.abs w)) (by simp [Instr.mnemonic]) rfl
  | rolAbs w => exact .modify rotateLeft (.mem (.abs w)) (by simp [Instr.mnemonic]) rfl
  | bmi b => exact .branch s.n b (by simp [Instr.mnemonic]) rfl
  | andIndY b => exact .accumulate bitAnd (.mem (.indY b)) (by simp [Instr.mnemonic]) rfl
  | andZpX b => exact .accumulate bitAnd (.mem (.zpX b)) (by simp [Instr.mnemonic]) rfl
  | rolZpX b => exact .modify rotateLeft (.mem (.zpX b)) (by simp [Instr.mnemonic]) rfl
  | sec => exact .sec rfl
  | andAbsY w => exact .accumulate bitAnd (.mem (.absY w)) (by simp [Instr.mnemonic]) rfl
  | andAbsX w => exact .accumulate bitAnd (.mem (.absX w)) (by simp [Instr.mnemonic]) rfl
  | rolAbsX w => exact .modify rotateLeft (.mem (.absX w)) (by simp [Instr.mnemonic]) rfl
  | rti => exact .unsupported (by simp [Instr.mnemonic, Instr.mode, Instr.form, OperandForm.mode])
  | eorIndX b => exact .accumulate bitXor (.mem (.indX b)) (by simp [Instr.mnemonic]) rfl
  | eorZp b => exact .accumulate bitXor (.mem (.zp b)) (by simp [Instr.mnemonic]) rfl
  | lsrZp b => exact .modify shiftRight (.mem (.zp b)) (by simp [Instr.mnemonic]) rfl
  | pha => exact .pha rfl
  | eorImm b => exact .accumulate bitXor (.imm b) (by simp [Instr.mnemonic]) rfl
  | lsrAcc => exact .modify shiftRight .acc (by simp [Instr.mnemonic]) rfl
  | jmpAbs w => exact .jmp w rfl
  | eorAbs w => exact .accumulate bitXor (.mem (.abs w)) (by simp [Instr.mnemonic]) rfl
  | lsrAbs w => exact .modify shiftRight (.mem (.abs w)) (by simp [Instr.mnemonic]) rfl
  | bvc b => exact .unsupported (by simp [Instr.mnemonic, Instr.mode, Instr.form, OperandForm.mode])
  | eorIndY b => exact .accumulate bitXor (.mem (.indY b)) (by simp [Instr.mnemonic]) rfl
  | eorZpX b => exact .accumulate bitXor (.mem (.zpX b)) (by simp [Instr.mnemonic]) rfl
  | lsrZpX b => exact .modify shiftRight (.mem (.zpX b)) (by simp [Instr.mnemonic]) rfl
  | cli => exact .unsupported (by simp [Instr.mnemonic, Instr.mode, Instr.form, OperandForm.mode])
  | eorAbsY w => exact .accumulate bitXor (.mem (.absY w)) (by simp [Instr.mnemonic]) rfl
  | eorAbsX w => exact .accumulate bitXor (.mem (.absX w)) (by simp [Instr.mnemonic]) rfl
  | lsrAbsX w => exact .modify shiftRight (.mem (.absX w)) (by simp [Instr.mnemonic]) rfl
  | rts => exact .rts rfl
  | adcIndX b => exact .accumulate addWithCarry (.mem (.indX b)) (by simp [Instr.mnemonic]) rfl
  | adcZp b => exact .accumulate addWithCarry (.mem (.zp b)) (by simp [Instr.mnemonic]) rfl
  | rorZp b => exact .modify rotateRight (.mem (.zp b)) (by simp [Instr.mnemonic]) rfl
  | pla => exact .pla rfl
  | adcImm b => exact .accumulate addWithCarry (.imm b) (by simp [Instr.mnemonic]) rfl
  | rorAcc => exact .modify rotateRight .acc (by simp [Instr.mnemonic]) rfl
  | jmpInd w => exact .unsupported (by simp [Instr.mnemonic, Instr.mode, Instr.form, OperandForm.mode])
  | adcAbs w => exact .accumulate addWithCarry (.mem (.abs w)) (by simp [Instr.mnemonic]) rfl
  | rorAbs w => exact .modify rotateRight (.mem (.abs w)) (by simp [Instr.mnemonic]) rfl
  | bvs b => exact .unsupported (by simp [Instr.mnemonic, Instr.mode, Instr.form, OperandForm.mode])
  | adcIndY b => exact .accumulate addWithCarry (.mem (.indY b)) (by simp [Instr.mnemonic]) rfl
  | adcZpX b => exact .accumulate addWithCarry (.mem (.zpX b)) (by simp [Instr.mnemonic]) rfl
  | rorZpX b => exact .modify rotateRight (.mem (.zpX b)) (by simp [Instr.mnemonic]) rfl
  | sei => exact .unsupported (by simp [Instr.mnemonic, Instr.mode, Instr.form, OperandForm.mode])
  | adcAbsY w => exact .accumulate addWithCarry (.mem (.absY w)) (by simp [Instr.mnemonic]) rfl
  | adcAbsX w => exact .accumulate addWithCarry (.mem (.absX w)) (by simp [Instr.mnemonic]) rfl
  | rorAbsX w => exact .modify rotateRight (.mem (.absX w)) (by simp [Instr.mnemonic]) rfl
  | staIndX b => exact .store s.a (.indX b) (by simp [Instr.mnemonic]) rfl
  | styZp b => exact .store s.y (.zp b) (by simp [Instr.mnemonic]) rfl
  | staZp b => exact .store s.a (.zp b) (by simp [Instr.mnemonic]) rfl
  | stxZp b => exact .store s.x (.zp b) (by simp [Instr.mnemonic]) rfl
  | dey => exact .move .y (decrement s.y) (by simp [Instr.mnemonic]) rfl
  | txa => exact .move .a s.x (by simp [Instr.mnemonic]) rfl
  | styAbs w => exact .store s.y (.abs w) (by simp [Instr.mnemonic]) rfl
  | staAbs w => exact .store s.a (.abs w) (by simp [Instr.mnemonic]) rfl
  | stxAbs w => exact .store s.x (.abs w) (by simp [Instr.mnemonic]) rfl
  | bcc b => exact .branch (!s.c) b (by simp [Instr.mnemonic]) rfl
  | staIndY b => exact .store s.a (.indY b) (by simp [Instr.mnemonic]) rfl
  | styZpX b => exact .store s.y (.zpX b) (by simp [Instr.mnemonic]) rfl
  | staZpX b => exact .store s.a (.zpX b) (by simp [Instr.mnemonic]) rfl
  | stxZpY b => exact .store s.x (.zpY b) (by simp [Instr.mnemonic]) rfl
  | tya => exact .move .a s.y (by simp [Instr.mnemonic]) rfl
  | staAbsY w => exact .store s.a (.absY w) (by simp [Instr.mnemonic]) rfl
  | txs => exact .txs rfl
  | staAbsX w => exact .store s.a (.absX w) (by simp [Instr.mnemonic]) rfl
  | ldyImm b => exact .load .y (.imm b) (by simp [Instr.mnemonic]) rfl
  | ldaIndX b => exact .load .a (.mem (.indX b)) (by simp [Instr.mnemonic]) rfl
  | ldxImm b => exact .load .x (.imm b) (by simp [Instr.mnemonic]) rfl
  | ldyZp b => exact .load .y (.mem (.zp b)) (by simp [Instr.mnemonic]) rfl
  | ldaZp b => exact .load .a (.mem (.zp b)) (by simp [Instr.mnemonic]) rfl
  | ldxZp b => exact .load .x (.mem (.zp b)) (by simp [Instr.mnemonic]) rfl
  | tay => exact .move .y s.a (by simp [Instr.mnemonic]) rfl
  | ldaImm b => exact .load .a (.imm b) (by simp [Instr.mnemonic]) rfl
  | tax => exact .move .x s.a (by simp [Instr.mnemonic]) rfl
  | ldyAbs w => exact .load .y (.mem (.abs w)) (by simp [Instr.mnemonic]) rfl
  | ldaAbs w => exact .load .a (.mem (.abs w)) (by simp [Instr.mnemonic]) rfl
  | ldxAbs w => exact .load .x (.mem (.abs w)) (by simp [Instr.mnemonic]) rfl
  | bcs b => exact .branch s.c b (by simp [Instr.mnemonic]) rfl
  | ldaIndY b => exact .load .a (.mem (.indY b)) (by simp [Instr.mnemonic]) rfl
  | ldyZpX b => exact .load .y (.mem (.zpX b)) (by simp [Instr.mnemonic]) rfl
  | ldaZpX b => exact .load .a (.mem (.zpX b)) (by simp [Instr.mnemonic]) rfl
  | ldxZpY b => exact .load .x (.mem (.zpY b)) (by simp [Instr.mnemonic]) rfl
  | clv => exact .unsupported (by simp [Instr.mnemonic, Instr.mode, Instr.form, OperandForm.mode])
  | ldaAbsY w => exact .load .a (.mem (.absY w)) (by simp [Instr.mnemonic]) rfl
  | tsx => exact .move .x s.sp (by simp [Instr.mnemonic]) rfl
  | ldyAbsX w => exact .load .y (.mem (.absX w)) (by simp [Instr.mnemonic]) rfl
  | ldaAbsX w => exact .load .a (.mem (.absX w)) (by simp [Instr.mnemonic]) rfl
  | ldxAbsY w => exact .load .x (.mem (.absY w)) (by simp [Instr.mnemonic]) rfl
  | cpyImm b => exact .compare .y (.imm b) (by simp [Instr.mnemonic]) rfl
  | cmpIndX b => exact .compare .a (.mem (.indX b)) (by simp [Instr.mnemonic]) rfl
  | cpyZp b => exact .compare .y (.mem (.zp b)) (by simp [Instr.mnemonic]) rfl
  | cmpZp b => exact .compare .a (.mem (.zp b)) (by simp [Instr.mnemonic]) rfl
  | decZp b => exact .modify (fun v c => (decrement v, c)) (.mem (.zp b)) (by simp [Instr.mnemonic]) rfl
  | iny => exact .move .y (increment s.y) (by simp [Instr.mnemonic]) rfl
  | cmpImm b => exact .compare .a (.imm b) (by simp [Instr.mnemonic]) rfl
  | dex => exact .move .x (decrement s.x) (by simp [Instr.mnemonic]) rfl
  | cpyAbs w => exact .compare .y (.mem (.abs w)) (by simp [Instr.mnemonic]) rfl
  | cmpAbs w => exact .compare .a (.mem (.abs w)) (by simp [Instr.mnemonic]) rfl
  | decAbs w => exact .modify (fun v c => (decrement v, c)) (.mem (.abs w)) (by simp [Instr.mnemonic]) rfl
  | bne b => exact .branch (!s.z) b (by simp [Instr.mnemonic]) rfl
  | cmpIndY b => exact .compare .a (.mem (.indY b)) (by simp [Instr.mnemonic]) rfl
  | cmpZpX b => exact .compare .a (.mem (.zpX b)) (by simp [Instr.mnemonic]) rfl
  | decZpX b => exact .modify (fun v c => (decrement v, c)) (.mem (.zpX b)) (by simp [Instr.mnemonic]) rfl
  | cld => exact .unsupported (by simp [Instr.mnemonic, Instr.mode, Instr.form, OperandForm.mode])
  | cmpAbsY w => exact .compare .a (.mem (.absY w)) (by simp [Instr.mnemonic]) rfl
  | cmpAbsX w => exact .compare .a (.mem (.absX w)) (by simp [Instr.mnemonic]) rfl
  | decAbsX w => exact .modify (fun v c => (decrement v, c)) (.mem (.absX w)) (by simp [Instr.mnemonic]) rfl
  | cpxImm b => exact .compare .x (.imm b) (by simp [Instr.mnemonic]) rfl
  | sbcIndX b => exact .accumulate subWithBorrow (.mem (.indX b)) (by simp [Instr.mnemonic]) rfl
  | cpxZp b => exact .compare .x (.mem (.zp b)) (by simp [Instr.mnemonic]) rfl
  | sbcZp b => exact .accumulate subWithBorrow (.mem (.zp b)) (by simp [Instr.mnemonic]) rfl
  | incZp b => exact .modify (fun v c => (increment v, c)) (.mem (.zp b)) (by simp [Instr.mnemonic]) rfl
  | inx => exact .move .x (increment s.x) (by simp [Instr.mnemonic]) rfl
  | sbcImm b => exact .accumulate subWithBorrow (.imm b) (by simp [Instr.mnemonic]) rfl
  | nop => exact .nop rfl
  | cpxAbs w => exact .compare .x (.mem (.abs w)) (by simp [Instr.mnemonic]) rfl
  | sbcAbs w => exact .accumulate subWithBorrow (.mem (.abs w)) (by simp [Instr.mnemonic]) rfl
  | incAbs w => exact .modify (fun v c => (increment v, c)) (.mem (.abs w)) (by simp [Instr.mnemonic]) rfl
  | beq b => exact .branch s.z b (by simp [Instr.mnemonic]) rfl
  | sbcIndY b => exact .accumulate subWithBorrow (.mem (.indY b)) (by simp [Instr.mnemonic]) rfl
  | sbcZpX b => exact .accumulate subWithBorrow (.mem (.zpX b)) (by simp [Instr.mnemonic]) rfl
  | incZpX b => exact .modify (fun v c => (increment v, c)) (.mem (.zpX b)) (by simp [Instr.mnemonic]) rfl
  | sed => exact .unsupported (by simp [Instr.mnemonic, Instr.mode, Instr.form, OperandForm.mode])
  | sbcAbsY w => exact .accumulate subWithBorrow (.mem (.absY w)) (by simp [Instr.mnemonic]) rfl
  | sbcAbsX w => exact .accumulate subWithBorrow (.mem (.absX w)) (by simp [Instr.mnemonic]) rfl
  | incAbsX w => exact .modify (fun v c => (increment v, c)) (.mem (.absX w)) (by simp [Instr.mnemonic]) rfl

/-! ### Sizes by operand -/

theorem size_of_source {i : Instr} {src : Source} (h : i.form.source? = some src) : i.size = sourceSize src := by
  have hm : i.form.mode = src.mode := by
    cases hf : i.form <;> simp only [hf, OperandForm.source?, Option.some.injEq, reduceCtorEq] at h <;> rw [← h] <;> rfl
  rw [Instr.size, Instr.mode, hm, sourceSize]

theorem size_of_place {i : Instr} {p : Place} (h : i.form.place? = some p) : i.size = placeSize p := by
  have hm : i.form.mode = p.mode := by
    cases hf : i.form <;> simp only [hf, OperandForm.place?, Option.some.injEq, reduceCtorEq] at h <;> rw [← h] <;> rfl
  rw [Instr.size, Instr.mode, hm, placeSize]

theorem size_of_mem {i : Instr} {r : MemRef} (h : i.form = .mem r) : i.size = memRefSize r := by
  rw [Instr.size, Instr.mode, h]
  rfl

theorem form_of_source_mem {i : Instr} {r : MemRef} : i.form.source? = some (.mem r) ↔ i.form = .mem r := by
  cases i.form <;> simp [OperandForm.source?]

theorem form_of_place_mem {i : Instr} {r : MemRef} : i.form.place? = some (.mem r) ↔ i.form = .mem r := by
  cases i.form <;> simp [OperandForm.place?]

/-! ### By mnemonic: the operand form and the shape, in every state -/

theorem exec_lda {i : Instr} (h : i.mnemonic = .lda) :
    ∃ src, i.form.source? = some src ∧ exec i = loadReg .a src := by
  cases i <;> cases h <;> exact ⟨_, rfl, rfl⟩

theorem exec_ldx {i : Instr} (h : i.mnemonic = .ldx) :
    ∃ src, i.form.source? = some src ∧ exec i = loadReg .x src := by
  cases i <;> cases h <;> exact ⟨_, rfl, rfl⟩

theorem exec_ldy {i : Instr} (h : i.mnemonic = .ldy) :
    ∃ src, i.form.source? = some src ∧ exec i = loadReg .y src := by
  cases i <;> cases h <;> exact ⟨_, rfl, rfl⟩

theorem exec_sta {i : Instr} (h : i.mnemonic = .sta) :
    ∃ r, i.form = .mem r ∧ ∀ s, exec i s = storeByte s.a r s := by
  cases i <;> cases h <;> exact ⟨_, rfl, fun _ => rfl⟩

theorem exec_stx {i : Instr} (h : i.mnemonic = .stx) :
    ∃ r, i.form = .mem r ∧ ∀ s, exec i s = storeByte s.x r s := by
  cases i <;> cases h <;> exact ⟨_, rfl, fun _ => rfl⟩

theorem exec_sty {i : Instr} (h : i.mnemonic = .sty) :
    ∃ r, i.form = .mem r ∧ ∀ s, exec i s = storeByte s.y r s := by
  cases i <;> cases h <;> exact ⟨_, rfl, fun _ => rfl⟩

theorem exec_adc {i : Instr} (h : i.mnemonic = .adc) :
    ∃ src, i.form.source? = some src ∧ exec i = accumulate addWithCarry src := by
  cases i <;> cases h <;> exact ⟨_, rfl, rfl⟩

theorem exec_sbc {i : Instr} (h : i.mnemonic = .sbc) :
    ∃ src, i.form.source? = some src ∧ exec i = accumulate subWithBorrow src := by
  cases i <;> cases h <;> exact ⟨_, rfl, rfl⟩

theorem exec_and {i : Instr} (h : i.mnemonic = .and) :
    ∃ src, i.form.source? = some src ∧ exec i = accumulate bitAnd src := by
  cases i <;> cases h <;> exact ⟨_, rfl, rfl⟩

theorem exec_ora {i : Instr} (h : i.mnemonic = .ora) :
    ∃ src, i.form.source? = some src ∧ exec i = accumulate bitOr src := by
  cases i <;> cases h <;> exact ⟨_, rfl, rfl⟩

theorem exec_eor {i : Instr} (h : i.mnemonic = .eor) :
    ∃ src, i.form.source? = some src ∧ exec i = accumulate bitXor src := by
  cases i <;> cases h <;> exact ⟨_, rfl, rfl⟩

theorem exec_cmp {i : Instr} (h : i.mnemonic = .cmp) :
    ∃ src, i.form.source? = some src ∧ exec i = compareReg .a src := by
  cases i <;> cases h <;> exact ⟨_, rfl, rfl⟩

theorem exec_cpx {i : Instr} (h : i.mnemonic = .cpx) :
    ∃ src, i.form.source? = some src ∧ exec i = compareReg .x src := by
  cases i <;> cases h <;> exact ⟨_, rfl, rfl⟩

theorem exec_cpy {i : Instr} (h : i.mnemonic = .cpy) :
    ∃ src, i.form.source? = some src ∧ exec i = compareReg .y src := by
  cases i <;> cases h <;> exact ⟨_, rfl, rfl⟩

theorem exec_inc {i : Instr} (h : i.mnemonic = .inc) :
    ∃ r, i.form = .mem r ∧ exec i = modifyPlace (fun v c => (increment v, c)) (.mem r) := by
  cases i <;> cases h <;> exact ⟨_, rfl, rfl⟩

theorem exec_dec {i : Instr} (h : i.mnemonic = .dec) :
    ∃ r, i.form = .mem r ∧ exec i = modifyPlace (fun v c => (decrement v, c)) (.mem r) := by
  cases i <;> cases h <;> exact ⟨_, rfl, rfl⟩

theorem exec_asl {i : Instr} (h : i.mnemonic = .asl) :
    ∃ p, i.form.place? = some p ∧ exec i = modifyPlace shiftLeft p := by
  cases i <;> cases h <;> exact ⟨_, rfl, rfl⟩

theorem exec_lsr {i : Instr} (h : i.mnemonic = .lsr) :
    ∃ p, i.form.place? = some p ∧ exec i = modifyPlace shiftRight p := by
  cases i <;> cases h <;> exact ⟨_, rfl, rfl⟩

theorem exec_rol {i : Instr} (h : i.mnemonic = .rol) :
    ∃ p, i.form.place? = some p ∧ exec i = modifyPlace rotateLeft p := by
  cases i <;> cases h <;> exact ⟨_, rfl, rfl⟩

theorem exec_ror {i : Instr} (h : i.mnemonic = .ror) :
    ∃ p, i.form.place? = some p ∧ exec i = modifyPlace rotateRight p := by
  cases i <;> cases h <;> exact ⟨_, rfl, rfl⟩

end Sys2Proof.Machine
end

