-- ==== Sys2Proof/Laws/Flags.lean ====
section
/-! SUPPORT. The flag computations and the shifts against bit-vector operations. -/

namespace Sys2Proof.Machine

/-- Bit 7 of a byte (spec/10_state.md R32). -/
theorem bit_seven (v : Byte) : bit v 7 = v.getLsbD 7 := by revert v; decide

/-- Bit 0 of a byte. -/
theorem bit_zero (v : Byte) : bit v 0 = v.getLsbD 0 := by revert v; decide

/-- SBC treats its operand as ADC treats the complement (spec/41_arithmetic_compare.md R121). -/
theorem subWithBorrow_eq_add (a m : Byte) (c : Bool) : subWithBorrow a m c = addWithCarry a (255 - m) c := by
  have ha := a.isLt
  have hm := m.isLt
  have h255 : (255 - m : Byte).toNat = 255 - m.toNat := by
    rw [BitVec.toNat_sub]
    simp
    omega
  have hc := c.toNat_lt
  simp only [subWithBorrow, addWithCarry, h255, Prod.mk.injEq]
  refine ⟨?_, ?_⟩
  · congr 1
    omega
  · simp only [decide_eq_decide]
    omega

/-- The difference of a comparison is the wrapped difference. -/
theorem difference_fst (r m : Byte) : (difference r m).1 = r - m := by
  have hr := r.isLt
  have hm := m.isLt
  apply BitVec.eq_of_toNat_eq
  simp only [difference, BitVec.toNat_sub, BitVec.toNat_ofNat]
  omega

theorem increment_eq (v : Byte) : increment v = v + 1 := by revert v; decide

theorem decrement_eq (v : Byte) : decrement v = v - 1 := by revert v; decide

theorem shiftLeft_eq (v : Byte) (c : Bool) : shiftLeft v c = (v <<< 1, v.getLsbD 7) := by
  refine Prod.ext ?_ (bit_seven v)
  revert c v; decide

theorem shiftRight_eq (v : Byte) (c : Bool) : shiftRight v c = (v >>> 1, v.getLsbD 0) := by
  refine Prod.ext ?_ (bit_zero v)
  revert c v; decide

theorem rotateLeft_eq (v : Byte) (c : Bool) :
    rotateLeft v c = ((v <<< 1) ||| BitVec.ofNat 8 c.toNat, v.getLsbD 7) := by
  refine Prod.ext ?_ (bit_seven v)
  revert c v; decide

theorem rotateRight_eq (v : Byte) (c : Bool) :
    rotateRight v c = ((v >>> 1) ||| BitVec.ofNat 8 (128 * c.toNat), v.getLsbD 0) := by
  refine Prod.ext ?_ (bit_zero v)
  revert c v; decide

end Sys2Proof.Machine
end

