-- ==== Sys2Proof/Laws/Memory.lean ====
section
/-! SUPPORT. What the memory operations do and that each keeps the canonical form (spec/20_memory.md R50, R58). -/

namespace Sys2Proof.Machine

/-! ### The canonical form -/

theorem Memory.wf_nil : Memory.wf [] := ⟨List.Pairwise.nil, fun _ h => nomatch h⟩

theorem Memory.wf_tail {p : Host.Cell} {m : Memory} (h : Memory.wf (p :: m)) : Memory.wf m :=
  ⟨h.1.of_cons, fun c hc => h.2 c (List.mem_cons_of_mem p hc)⟩

/-- An entry of a written memory is the new one or an old one at another address. -/
theorem Memory.mem_write {m : Memory} {k : Nat} {v : Byte} {c : Host.Cell} (h : c ∈ m.write k v) (hm : m.wf) :
    (c = (k, v) ∧ v ≠ Config.fillByte) ∨ (c ∈ m ∧ c.1 ≠ k) := by
  induction m with
  | nil =>
    unfold Memory.write at h
    split at h
    · cases h
    · exact .inl ⟨by simpa using h, ‹_›⟩
  | cons p rest ih =>
    obtain ⟨a, w⟩ := p
    have hlt : ∀ q ∈ rest, a < q.1 := fun q hq => (List.pairwise_cons.1 hm.1).1 q hq
    simp only [Memory.write] at h
    split at h
    · rename_i hka
      have old : ∀ q ∈ (a, w) :: rest, q.1 ≠ k := by
        intro q hq
        rcases List.mem_cons.1 hq with rfl | hq
        · exact Nat.ne_of_gt hka
        · exact Nat.ne_of_gt (Nat.lt_trans hka (hlt q hq))
      split at h
      · exact .inr ⟨h, old c h⟩
      · rcases List.mem_cons.1 h with rfl | h
        · exact .inl ⟨rfl, ‹_›⟩
        · exact .inr ⟨h, old c h⟩
    · split at h
      · rename_i _ hka
        subst hka
        have old : ∀ q ∈ rest, q.1 ≠ k := fun q hq => Nat.ne_of_gt (hlt q hq)
        split at h
        · exact .inr ⟨List.mem_cons_of_mem _ h, old c h⟩
        · rcases List.mem_cons.1 h with rfl | h
          · exact .inl ⟨rfl, ‹_›⟩
          · exact .inr ⟨List.mem_cons_of_mem _ h, old c h⟩
      · rename_i _ hka
        rcases List.mem_cons.1 h with rfl | h
        · exact .inr ⟨List.mem_cons_self, fun e => hka e.symm⟩
        · rcases ih h (Memory.wf_tail hm) with ⟨rfl, hv⟩ | ⟨hc, hne⟩
          · exact .inl ⟨rfl, hv⟩
          · exact .inr ⟨List.mem_cons_of_mem _ hc, hne⟩

/-- A write inside the address space keeps the canonical form. -/
theorem Memory.write_wf {m : Memory} {k : Nat} (v : Byte) (hm : m.wf) (hk : k < Config.memorySize) : (m.write k v).wf := by
  refine ⟨?_, ?_⟩
  · induction m with
    | nil => unfold Memory.write; split <;> simp
    | cons p rest ih =>
      obtain ⟨a, w⟩ := p
      have hp := List.pairwise_cons.1 hm.1
      simp only [Memory.write]
      split
      · rename_i hka
        split
        · exact hm.1
        · refine List.pairwise_cons.2 ⟨fun q hq => ?_, hm.1⟩
          rcases List.mem_cons.1 hq with rfl | hq
          · exact hka
          · exact Nat.lt_trans hka (hp.1 q hq)
      · split
        · rename_i _ hka
          subst hka
          split
          · exact hp.2
          · exact List.pairwise_cons.2 ⟨hp.1, hp.2⟩
        · refine List.pairwise_cons.2 ⟨fun q hq => ?_, ih (Memory.wf_tail hm)⟩
          rcases Memory.mem_write hq (Memory.wf_tail hm) with ⟨rfl, _⟩ | ⟨hq, _⟩
          · show a < k
            omega
          · exact hp.1 q hq
  · intro c hc
    rcases Memory.mem_write hc hm with ⟨rfl, hv⟩ | ⟨hc, _⟩
    · exact ⟨hk, hv⟩
    · exact hm.2 c hc

/-! ### Reading -/

/-- An address no entry names reads as the fill byte. -/
theorem Memory.read_of_not_listed {m : Memory} {k : Nat} (h : ∀ c ∈ m, c.1 ≠ k) : m.read k = Config.fillByte := by
  induction m with
  | nil => rfl
  | cons p rest ih =>
    obtain ⟨a, w⟩ := p
    have ha : k ≠ a := fun e => h (a, w) List.mem_cons_self e.symm
    simp only [Memory.read, if_neg ha]
    exact ih fun c hc => h c (List.mem_cons_of_mem _ hc)

/-- An entry is what its address reads as. -/
theorem Memory.read_of_mem {m : Memory} {c : Host.Cell} (hm : m.wf) (hc : c ∈ m) : m.read c.1 = c.2 := by
  induction m with
  | nil => cases hc
  | cons p rest ih =>
    obtain ⟨a, w⟩ := p
    rcases List.mem_cons.1 hc with rfl | hc
    · simp [Memory.read]
    · have : a < c.1 := (List.pairwise_cons.1 hm.1).1 c hc
      simp only [Memory.read, if_neg (Nat.ne_of_gt this)]
      exact ih (Memory.wf_tail hm) hc

/-- A write leaves every other address alone. -/
theorem Memory.read_write_other (m : Memory) {k j : Nat} (v : Byte) (h : j ≠ k) : (m.write k v).read j = m.read j := by
  induction m with
  | nil => unfold Memory.write; split <;> simp [Memory.read, h]
  | cons p rest ih =>
    obtain ⟨a, w⟩ := p
    simp only [Memory.write]
    split
    · split
      · rfl
      · simp [Memory.read, h]
    · split
      · rename_i _ hka
        subst hka
        split <;> simp [Memory.read, h]
      · simp only [Memory.read, ih]

/-- A read after a write to the same address gives the value written. -/
theorem Memory.read_write_same {m : Memory} {k : Nat} (v : Byte) (hm : m.wf) : (m.write k v).read k = v := by
  induction m with
  | nil =>
    unfold Memory.write
    split
    · rename_i h; simp [Memory.read, h]
    · simp [Memory.read]
  | cons p rest ih =>
    obtain ⟨a, w⟩ := p
    have hlt : ∀ q ∈ rest, a < q.1 := fun q hq => (List.pairwise_cons.1 hm.1).1 q hq
    simp only [Memory.write]
    split
    · rename_i hka
      split
      · rename_i hv
        rw [hv]
        refine Memory.read_of_not_listed fun q hq => ?_
        rcases List.mem_cons.1 hq with rfl | hq
        · exact Nat.ne_of_gt hka
        · exact Nat.ne_of_gt (Nat.lt_trans hka (hlt q hq))
      · simp [Memory.read]
    · split
      · rename_i _ hka
        subst hka
        split
        · rename_i hv
          rw [hv]
          exact Memory.read_of_not_listed fun q hq => Nat.ne_of_gt (hlt q hq)
        · simp [Memory.read]
      · rename_i _ hka
        simp only [Memory.read, if_neg hka]
        exact ih (Memory.wf_tail hm)

theorem Memory.read_write {m : Memory} {k j : Nat} (v : Byte) (hm : m.wf) :
    (m.write k v).read j = if j = k then v else m.read j := by
  split
  · rename_i h; subst h; exact Memory.read_write_same v hm
  · rename_i h; exact Memory.read_write_other m v h

/-- Two canonical memories that read alike everywhere are the same list. -/
theorem Memory.ext_of_read {m m' : Memory} (hm : m.wf) (hm' : m'.wf) (h : ∀ k, m.read k = m'.read k) : m = m' := by
  induction m generalizing m' with
  | nil =>
    cases m' with
    | nil => rfl
    | cons q rest' =>
      have hq := h q.1
      rw [Memory.read_of_mem hm' List.mem_cons_self] at hq
      exact absurd hq.symm (hm'.2 q List.mem_cons_self).2
  | cons p rest ih =>
    have hp : m'.read p.1 = p.2 := by rw [← h, Memory.read_of_mem hm List.mem_cons_self]
    have hne := (hm.2 p List.mem_cons_self).2
    cases m' with
    | nil => exact absurd hp.symm hne
    | cons q rest' =>
      have hq : Memory.read (p :: rest) q.1 = q.2 := by rw [h, Memory.read_of_mem hm' List.mem_cons_self]
      have hqne := (hm'.2 q List.mem_cons_self).2
      have hp1 := (List.pairwise_cons.1 hm.1).1
      have hq1 := (List.pairwise_cons.1 hm'.1).1
      have key : p.1 = q.1 := by
        rcases Nat.lt_trichotomy p.1 q.1 with hlt | heq | hgt
        · refine absurd (hp.symm.trans (Memory.read_of_not_listed fun c hc => ?_)) hne
          rcases List.mem_cons.1 hc with rfl | hc
          · exact Nat.ne_of_gt hlt
          · exact Nat.ne_of_gt (Nat.lt_trans hlt (hq1 c hc))
        · exact heq
        · refine absurd (hq.symm.trans (Memory.read_of_not_listed fun c hc => ?_)) hqne
          rcases List.mem_cons.1 hc with rfl | hc
          · exact Nat.ne_of_gt hgt
          · exact Nat.ne_of_gt (Nat.lt_trans hgt (hp1 c hc))
      have hpq : p = q := by
        refine Prod.ext key ?_
        rw [← hp, key, Memory.read_of_mem hm' List.mem_cons_self]
      subst hpq
      congr 1
      refine ih (Memory.wf_tail hm) (Memory.wf_tail hm') fun k => ?_
      by_cases hk : k = p.1
      · subst hk
        rw [Memory.read_of_not_listed fun c hc => Nat.ne_of_gt (hp1 c hc),
          Memory.read_of_not_listed fun c hc => Nat.ne_of_gt (hq1 c hc)]
      · have := h k
        obtain ⟨a, w⟩ := p
        simpa only [Memory.read, if_neg hk] using this

/-! ### Writing several bytes -/

theorem Memory.writeBytes_wf {m : Memory} {k : Nat} (vs : List Byte) (hm : m.wf) (hk : k + vs.length ≤ Config.memorySize) :
    (m.writeBytes k vs).wf := by
  induction vs generalizing m k with
  | nil => exact hm
  | cons v vs ih =>
    simp only [List.length_cons] at hk
    exact ih (Memory.write_wf v hm (by omega)) (by omega)

/-- Outside the bytes written nothing changes. -/
theorem Memory.read_writeBytes_other (m : Memory) {k j : Nat} (vs : List Byte) (h : j < k ∨ k + vs.length ≤ j) :
    (m.writeBytes k vs).read j = m.read j := by
  induction vs generalizing m k with
  | nil => rfl
  | cons v vs ih =>
    simp only [List.length_cons] at h
    rw [Memory.writeBytes, ih (m := m.write k v) (by omega), Memory.read_write_other m v (by omega)]

/-- Each byte written is read back. -/
theorem Memory.read_writeBytes {m : Memory} {k j : Nat} {vs : List Byte} {v : Byte} (hm : m.wf)
    (hk : k + vs.length ≤ Config.memorySize) (hv : vs[j]? = some v) : (m.writeBytes k vs).read (k + j) = v := by
  induction vs generalizing m k j with
  | nil => simp at hv
  | cons u vs ih =>
    simp only [List.length_cons] at hk
    cases j with
    | zero =>
      simp only [List.getElem?_cons_zero, Option.some.injEq] at hv
      subst hv
      rw [Memory.writeBytes, Memory.read_writeBytes_other _ _ (by omega)]
      exact Memory.read_write_same u hm
    | succ j =>
      have := ih (m := m.write k u) (k := k + 1) (j := j) (Memory.write_wf u hm (by omega)) (by omega) (by simpa using hv)
      rw [Memory.writeBytes, show k + (j + 1) = k + 1 + j by omega]
      exact this

theorem Memory.applySnapshot_wf {m : Memory} {l : List (Nat × Nat)} (hm : m.wf) (hl : ∀ p ∈ l, p.1 < Config.memorySize) :
    (applySnapshot m l).wf := by
  induction l generalizing m with
  | nil => exact hm
  | cons p l ih =>
    exact ih (Memory.write_wf _ hm (hl p List.mem_cons_self)) fun q hq => hl q (List.mem_cons_of_mem _ hq)

/-! ### Every total function from address to byte is a memory (log entry 11) -/

theorem Memory.ofFn_wf (f : Nat → Byte) : (Memory.ofFn f).wf := by
  refine ⟨?_, ?_⟩
  · refine List.Pairwise.filter _ ?_
    refine List.pairwise_map.2 ?_
    exact List.pairwise_lt_range
  · intro c hc
    simp only [Memory.ofFn, List.mem_filter, List.mem_map, List.mem_range] at hc
    obtain ⟨⟨k, hk, rfl⟩, hv⟩ := hc
    exact ⟨hk, by simpa using hv⟩

theorem Memory.read_ofFn (f : Nat → Byte) {k : Nat} (hk : k < Config.memorySize) : (Memory.ofFn f).read k = f k := by
  by_cases hf : f k = Config.fillByte
  · rw [hf]
    refine Memory.read_of_not_listed fun c hc e => ?_
    simp only [Memory.ofFn, List.mem_filter, List.mem_map] at hc
    obtain ⟨⟨j, _, rfl⟩, hv⟩ := hc
    simp only at e
    subst e
    simp [hf] at hv
  · have : (k, f k) ∈ Memory.ofFn f := by
      simp only [Memory.ofFn, List.mem_filter, List.mem_map, List.mem_range]
      exact ⟨⟨k, hk, rfl⟩, by simpa using hf⟩
    exact Memory.read_of_mem (c := (k, f k)) (Memory.ofFn_wf f) this

end Sys2Proof.Machine
end

