-- ==== Sys2Proof/Laws/Step.lean ====
section
/-! SUPPORT. What the front of a step does in each case, and once everything a step can do. -/

namespace Sys2Proof.Machine

/-- The budget is checked before the fetch. -/
theorem fetch_budget {s : State} (h : s.stepBudget ≤ s.steps) : fetch s = .raised .budgetExceeded := if_pos h

/-- A byte outside EXEC_SET, whatever follows it. -/
theorem fetch_unsupported {s : State} (h : s.steps < s.stepBudget) (he : inExecSet (s.byteAt s.pc) = false) :
    fetch s = .raised (.unsupportedOpcode (s.byteAt s.pc) s.pc) := by
  rw [fetch, if_neg (by omega), if_pos he]

/-- An operand byte beyond the address space. -/
theorem fetch_missing {s : State} {d : Descriptor} (h : s.steps < s.stepBudget) (he : inExecSet (s.byteAt s.pc) = true)
    (hd : opcodeTable (s.byteAt s.pc) = some d) (hm : 65536 < s.pc.toNat + d.size) :
    fetch s = .raised (.addressSpaceViolation 65536 s.pc) := by
  obtain ⟨r, hr, rfl⟩ := opcodeTable_some hd
  obtain ⟨tl, hw, htl⟩ := fetchWindow_cons s
  have hl : tl.length = min 2 (65536 - (s.pc.toNat + 1)) := by rw [htl, window_length]
  have h₃ := r.size_le
  have hm : 65536 < s.pc.toNat + r.size := hm
  have hp := s.pc.isLt
  rw [fetch, if_neg (by omega), if_neg (by rw [he]; decide), hw, decode_truncated hr (by omega)]
  show (match missingOperand r.size s with
    | some addr => Fetched.raised (.addressSpaceViolation addr s.pc)
    | none => _) = _
  rw [missingOperand_eq r.size s r.size_pos h₃, if_pos hm]
  rfl

/-- An instruction. -/
theorem fetch_instr {s : State} {i : Instr} {rest : List Byte} (h : s.steps < s.stepBudget)
    (he : inExecSet (s.byteAt s.pc) = true) (hd : decode s.fetchWindow = .instr i rest) : fetch s = .instr i := by
  rw [fetch, if_neg (by omega), if_neg (by rw [he]; decide), hd]

/-- Where the bytes of a row fit, the window decodes. -/
theorem decode_fetchWindow {s : State} {d : Descriptor} (hd : opcodeTable (s.byteAt s.pc) = some d)
    (hb : s.pc.toNat + d.size ≤ 65536) :
    ∃ i rest, decode s.fetchWindow = .instr i rest ∧ i.opcode = s.byteAt s.pc ∧ i.descriptor = d := by
  obtain ⟨r, hr, rfl⟩ := opcodeTable_some hd
  obtain ⟨tl, hw, htl⟩ := fetchWindow_cons s
  have hl : tl.length = min 2 (65536 - (s.pc.toNat + 1)) := by rw [htl, window_length]
  have hb : s.pc.toNat + r.size ≤ 65536 := hb
  have h₃ := r.size_le
  have hd' := decode_instr (rest := tl) hr (by omega)
  rw [hw]
  obtain ⟨h₁, h₂, _⟩ := decode_instr_row hd'
  rw [hd] at h₂
  exact ⟨_, _, hd', h₁, (Option.some.inj h₂).symm⟩

/-- A decoded window has the opcode at `PC`, and its bytes are in the address space. -/
theorem decode_fetchWindow_row {s : State} {i : Instr} {rest : List Byte} (hd : decode s.fetchWindow = .instr i rest) :
    i.opcode = s.byteAt s.pc ∧ opcodeTable (s.byteAt s.pc) = some i.descriptor ∧ s.pc.toNat + i.size ≤ 65536 := by
  obtain ⟨tl, hw, htl⟩ := fetchWindow_cons s
  have hl : tl.length = min 2 (65536 - (s.pc.toNat + 1)) := by rw [htl, window_length]
  rw [hw] at hd
  obtain ⟨h₁, h₂, h₃, _⟩ := decode_instr_row hd
  have hp := s.pc.isLt
  exact ⟨h₁, h₂, by omega⟩

theorem step_running {s : State} (h : s.outcome = .running) :
    step s = match fetch s with | .instr i => exec i s | .raised o => raise o s := if_pos h

theorem step_ended {s : State} (h : s.outcome ≠ .running) : step s = .fault .runEnded := if_neg h

theorem step_of_fetch_raised {s : State} {o : RunOutcome} (h : s.outcome = .running) (hf : fetch s = .raised o) :
    step s = .next (s.raised o) := by
  rw [step_running h, hf]
  rfl

theorem step_of_fetch_instr {s : State} {i : Instr} (h : s.outcome = .running) (hf : fetch s = .instr i) :
    step s = exec i s := by
  rw [step_running h, hf]

/-- Everything the front of a step can do. -/
theorem fetch_cases (s : State) :
    (s.stepBudget ≤ s.steps ∧ fetch s = .raised .budgetExceeded) ∨
    (s.steps < s.stepBudget ∧ inExecSet (s.byteAt s.pc) = false ∧
      fetch s = .raised (.unsupportedOpcode (s.byteAt s.pc) s.pc)) ∨
    (s.steps < s.stepBudget ∧ inExecSet (s.byteAt s.pc) = true ∧
      ∃ d, opcodeTable (s.byteAt s.pc) = some d ∧ 65536 < s.pc.toNat + d.size ∧
        fetch s = .raised (.addressSpaceViolation 65536 s.pc)) ∨
    (s.steps < s.stepBudget ∧ inExecSet (s.byteAt s.pc) = true ∧
      ∃ i rest, decode s.fetchWindow = .instr i rest ∧ i.opcode = s.byteAt s.pc ∧
        opcodeTable (s.byteAt s.pc) = some i.descriptor ∧ s.pc.toNat + i.size ≤ 65536 ∧ fetch s = .instr i) := by
  by_cases hb : s.stepBudget ≤ s.steps
  · exact .inl ⟨hb, fetch_budget hb⟩
  · have hb : s.steps < s.stepBudget := by omega
    cases he : inExecSet (s.byteAt s.pc) with
    | false => exact .inr (.inl ⟨hb, rfl, fetch_unsupported hb he⟩)
    | true =>
      obtain ⟨r, hr, _⟩ := inExecSet_lookup he
      have hd := opcodeTable_of_lookup hr
      by_cases hm : 65536 < s.pc.toNat + r.descriptor.size
      · exact .inr (.inr (.inl ⟨hb, rfl, _, hd, hm, fetch_missing hb he hd hm⟩))
      · obtain ⟨i, rest, hi, ho, hdi⟩ := decode_fetchWindow hd (by omega)
        have := decode_fetchWindow_row hi
        exact .inr (.inr (.inr ⟨hb, rfl, i, rest, hi, ho, this.2.1, this.2.2, fetch_instr hb he hi⟩))

/-- Everything a step of a run that has not ended can do. -/
theorem step_cases {s t : State} (hr : s.outcome = .running) (h : step s = .next t) :
    (s.stepBudget ≤ s.steps ∧ t = { s with outcome := .budgetExceeded }) ∨
    (s.steps < s.stepBudget ∧ inExecSet (s.byteAt s.pc) = false ∧
      t = { s with outcome := .unsupportedOpcode (s.byteAt s.pc) s.pc }) ∨
    (s.steps < s.stepBudget ∧ inExecSet (s.byteAt s.pc) = true ∧
      ∃ d, opcodeTable (s.byteAt s.pc) = some d ∧ 65536 < s.pc.toNat + d.size ∧
        t = { s with outcome := .addressSpaceViolation 65536 s.pc }) ∨
    (s.steps < s.stepBudget ∧ inExecSet (s.byteAt s.pc) = true ∧
      ∃ i rest, decode s.fetchWindow = .instr i rest ∧ i.opcode = s.byteAt s.pc ∧
        opcodeTable (s.byteAt s.pc) = some i.descriptor ∧ s.pc.toNat + i.size ≤ 65536 ∧ exec i s = .next t) := by
  rcases fetch_cases s with ⟨hb, hf⟩ | ⟨hb, he, hf⟩ | ⟨hb, he, d, hd, hm, hf⟩ | ⟨hb, he, i, rest, hi, ho, hd, hp, hf⟩
  · rw [step_of_fetch_raised hr hf] at h
    exact .inl ⟨hb, (result_next_inj.1 h).symm⟩
  · rw [step_of_fetch_raised hr hf] at h
    exact .inr (.inl ⟨hb, he, (result_next_inj.1 h).symm⟩)
  · rw [step_of_fetch_raised hr hf] at h
    exact .inr (.inr (.inl ⟨hb, he, d, hd, hm, (result_next_inj.1 h).symm⟩))
  · rw [step_of_fetch_instr hr hf] at h
    exact .inr (.inr (.inr ⟨hb, he, i, rest, hi, ho, hd, hp, h⟩))

end Sys2Proof.Machine
end

