-- ==== Sys2Proof/Tests/Slice0.lean ====
section
/-! SUPPORT. Tests of the model: the WellFormed smoke, every constructor's decoding from a word written out from the spec's encoding,
single steps from the vectors of spec/95_test_vectors.md, and for every statement that has hypotheses a witness that meets them. -/

open Sys2Proof Sys2Proof.Machine

namespace Sys2Proof.Tests

/-! ### WellFormed: what each check refuses -/

/-- No store has an immediate form (spec/40_load_store_transfer.md R103). -/
theorem test_wf_store_immediate : wellFormedForm .sta (.imm 0x00) = false := by decide

/-- LDX is indexed by Y, STX too (spec/40_load_store_transfer.md R101, R104). -/
theorem test_wf_ldx_zpX : wellFormedForm .ldx (.mem (.zpX 0x10)) = false ∧ wellFormedForm .stx (.mem (.zpX 0x10)) = false := by decide

/-- JSR has no indirect form, INC no accumulator form, BNE no absolute form. -/
theorem test_wf_no_such_form : wellFormedForm .jsr (.pointer 0x0300) = false ∧ wellFormedForm .inc .accumulator = false ∧
    wellFormedForm .bne (.jump 0x8000) = false ∧ wellFormedForm .jmp (.pointer 0x0300) = true := by decide

/-- A size that is not its tag's, and a pair that is no row (spec/30_encoding.md R80). -/
theorem test_wf_descriptor : Descriptor.wf ⟨.lda, 3, .immediate⟩ = false ∧ Descriptor.wf ⟨.rts, 2, .implied⟩ = false ∧
    Descriptor.wf ⟨.sta, 2, .immediate⟩ = false ∧ Descriptor.wf ⟨.lda, 2, .immediate⟩ = true := by decide

/-- A Decoder call past the top of the address space (spec/30_encoding.md R85), and one that just fits (vector E10). -/
theorem test_wf_decode_call : decodeCallWf [0xF0, 0x7F] 0xFFFF = false ∧ decodeCallWf [0xF0, 0x7F] 0xFFFE = true := by decide

/-- The baseline launch of spec/95_test_vectors.md. -/
def baseline : LaunchInputs :=
  { start := 0x8000, stepBudget := 100, a0 := 0x00, x0 := 0x00, y0 := 0x00, sp0 := 0xFF, n0 := false, z0 := false
    c0 := false, fill := [], snapshot := [], code := [], loadAddress := none }

/-- Launch inputs outside the address space (spec/60_exceptions.md R221). -/
theorem test_wf_launch : launch { baseline with start := 65536 } = none ∧
    launch { baseline with snapshot := [(65536, 0)] } = none ∧ launch { baseline with snapshot := [(0, 256)] } = none ∧
    launch { baseline with start := 0xFFFF, code := [0xEA, 0x60] } = none ∧ launch { baseline with code := [256] } = none ∧
    launch { baseline with fill := [(0x10, 0x00)] } = none ∧ launch baseline = some State.reset := by decide

/-! ### Decoding: one word for every constructor, written out from spec/30_encoding.md R83 and the formats of R71 -/

/-- Each list of bytes is exactly this instruction. -/
def decodesTo (l : List (List Byte × Instr)) : Bool := l.all fun p => decide (decode p.1 = .instr p.2 [])

/-- Loads and stores (spec/30_encoding.md R71, R76, R83). -/
theorem test_decode_loads_stores : decodesTo
    ([([0x81, 0x9C], .staIndX 0x9C), ([0x84, 0x9C], .styZp 0x9C), ([0x85, 0x9C], .staZp 0x9C),
     ([0x86, 0x9C], .stxZp 0x9C), ([0x8C, 0x34, 0xF2], .styAbs 0xF234), ([0x8D, 0x34, 0xF2], .staAbs 0xF234),
     ([0x8E, 0x34, 0xF2], .stxAbs 0xF234), ([0x91, 0x9C], .staIndY 0x9C), ([0x94, 0x9C], .styZpX 0x9C),
     ([0x95, 0x9C], .staZpX 0x9C), ([0x96, 0x9C], .stxZpY 0x9C), ([0x99, 0x34, 0xF2], .staAbsY 0xF234),
     ([0x9D, 0x34, 0xF2], .staAbsX 0xF234), ([0xA0, 0x9C], .ldyImm 0x9C), ([0xA1, 0x9C], .ldaIndX 0x9C),
     ([0xA2, 0x9C], .ldxImm 0x9C), ([0xA4, 0x9C], .ldyZp 0x9C), ([0xA5, 0x9C], .ldaZp 0x9C),
     ([0xA6, 0x9C], .ldxZp 0x9C), ([0xA9, 0x9C], .ldaImm 0x9C)] ++
     [([0xAC, 0x34, 0xF2], .ldyAbs 0xF234), ([0xAD, 0x34, 0xF2], .ldaAbs 0xF234),
     ([0xAE, 0x34, 0xF2], .ldxAbs 0xF234), ([0xB1, 0x9C], .ldaIndY 0x9C), ([0xB4, 0x9C], .ldyZpX 0x9C),
     ([0xB5, 0x9C], .ldaZpX 0x9C), ([0xB6, 0x9C], .ldxZpY 0x9C), ([0xB9, 0x34, 0xF2], .ldaAbsY 0xF234),
     ([0xBC, 0x34, 0xF2], .ldyAbsX 0xF234), ([0xBD, 0x34, 0xF2], .ldaAbsX 0xF234),
     ([0xBE, 0x34, 0xF2], .ldxAbsY 0xF234)]) = true := by decide

/-- Transfers, increments and decrements of registers (spec/30_encoding.md R71, R76, R83). -/
theorem test_decode_register_moves : decodesTo
    ([([0x88], .dey), ([0x8A], .txa), ([0x98], .tya), ([0x9A], .txs), ([0xA8], .tay), ([0xAA], .tax), ([0xBA], .tsx),
     ([0xC8], .iny), ([0xCA], .dex), ([0xE8], .inx)]) = true := by decide

/-- Arithmetic (spec/30_encoding.md R71, R76, R83). -/
theorem test_decode_arithmetic : decodesTo
    ([([0x61, 0x9C], .adcIndX 0x9C), ([0x65, 0x9C], .adcZp 0x9C), ([0x69, 0x9C], .adcImm 0x9C),
     ([0x6D, 0x34, 0xF2], .adcAbs 0xF234), ([0x71, 0x9C], .adcIndY 0x9C), ([0x75, 0x9C], .adcZpX 0x9C),
     ([0x79, 0x34, 0xF2], .adcAbsY 0xF234), ([0x7D, 0x34, 0xF2], .adcAbsX 0xF234), ([0xE1, 0x9C], .sbcIndX 0x9C),
     ([0xE5, 0x9C], .sbcZp 0x9C), ([0xE9, 0x9C], .sbcImm 0x9C), ([0xED, 0x34, 0xF2], .sbcAbs 0xF234),
     ([0xF1, 0x9C], .sbcIndY 0x9C), ([0xF5, 0x9C], .sbcZpX 0x9C), ([0xF9, 0x34, 0xF2], .sbcAbsY 0xF234),
     ([0xFD, 0x34, 0xF2], .sbcAbsX 0xF234)]) = true := by decide

/-- Comparison (spec/30_encoding.md R71, R76, R83). -/
theorem test_decode_comparison : decodesTo
    ([([0xC0, 0x9C], .cpyImm 0x9C), ([0xC1, 0x9C], .cmpIndX 0x9C), ([0xC4, 0x9C], .cpyZp 0x9C),
     ([0xC5, 0x9C], .cmpZp 0x9C), ([0xC9, 0x9C], .cmpImm 0x9C), ([0xCC, 0x34, 0xF2], .cpyAbs 0xF234),
     ([0xCD, 0x34, 0xF2], .cmpAbs 0xF234), ([0xD1, 0x9C], .cmpIndY 0x9C), ([0xD5, 0x9C], .cmpZpX 0x9C),
     ([0xD9, 0x34, 0xF2], .cmpAbsY 0xF234), ([0xDD, 0x34, 0xF2], .cmpAbsX 0xF234), ([0xE0, 0x9C], .cpxImm 0x9C),
     ([0xE4, 0x9C], .cpxZp 0x9C), ([0xEC, 0x34, 0xF2], .cpxAbs 0xF234)]) = true := by decide

/-- Read-modify-write (spec/30_encoding.md R71, R76, R83). -/
theorem test_decode_read_modify_write : decodesTo
    ([([0x06, 0x9C], .aslZp 0x9C), ([0x0A], .aslAcc), ([0x0E, 0x34, 0xF2], .aslAbs 0xF234),
     ([0x16, 0x9C], .aslZpX 0x9C), ([0x1E, 0x34, 0xF2], .aslAbsX 0xF234), ([0x26, 0x9C], .rolZp 0x9C),
     ([0x2A], .rolAcc), ([0x2E, 0x34, 0xF2], .rolAbs 0xF234), ([0x36, 0x9C], .rolZpX 0x9C),
     ([0x3E, 0x34, 0xF2], .rolAbsX 0xF234), ([0x46, 0x9C], .lsrZp 0x9C), ([0x4A], .lsrAcc),
     ([0x4E, 0x34, 0xF2], .lsrAbs 0xF234), ([0x56, 0x9C], .lsrZpX 0x9C), ([0x5E, 0x34, 0xF2], .lsrAbsX 0xF234),
     ([0x66, 0x9C], .rorZp 0x9C), ([0x6A], .rorAcc), ([0x6E, 0x34, 0xF2], .rorAbs 0xF234),
     ([0x76, 0x9C], .rorZpX 0x9C), ([0x7E, 0x34, 0xF2], .rorAbsX 0xF234)] ++
     [([0xC6, 0x9C], .decZp 0x9C), ([0xCE, 0x34, 0xF2], .decAbs 0xF234), ([0xD6, 0x9C], .decZpX 0x9C),
     ([0xDE, 0x34, 0xF2], .decAbsX 0xF234), ([0xE6, 0x9C], .incZp 0x9C), ([0xEE, 0x34, 0xF2], .incAbs 0xF234),
     ([0xF6, 0x9C], .incZpX 0x9C), ([0xFE, 0x34, 0xF2], .incAbsX 0xF234)]) = true := by decide

/-- Logic (spec/30_encoding.md R71, R76, R83). -/
theorem test_decode_logic : decodesTo
    ([([0x01, 0x9C], .oraIndX 0x9C), ([0x05, 0x9C], .oraZp 0x9C), ([0x09, 0x9C], .oraImm 0x9C),
     ([0x0D, 0x34, 0xF2], .oraAbs 0xF234), ([0x11, 0x9C], .oraIndY 0x9C), ([0x15, 0x9C], .oraZpX 0x9C),
     ([0x19, 0x34, 0xF2], .oraAbsY 0xF234), ([0x1D, 0x34, 0xF2], .oraAbsX 0xF234), ([0x21, 0x9C], .andIndX 0x9C),
     ([0x25, 0x9C], .andZp 0x9C), ([0x29, 0x9C], .andImm 0x9C), ([0x2D, 0x34, 0xF2], .andAbs 0xF234),
     ([0x31, 0x9C], .andIndY 0x9C), ([0x35, 0x9C], .andZpX 0x9C), ([0x39, 0x34, 0xF2], .andAbsY 0xF234),
     ([0x3D, 0x34, 0xF2], .andAbsX 0xF234), ([0x41, 0x9C], .eorIndX 0x9C), ([0x45, 0x9C], .eorZp 0x9C),
     ([0x49, 0x9C], .eorImm 0x9C), ([0x4D, 0x34, 0xF2], .eorAbs 0xF234)] ++
     [([0x51, 0x9C], .eorIndY 0x9C), ([0x55, 0x9C], .eorZpX 0x9C), ([0x59, 0x34, 0xF2], .eorAbsY 0xF234),
     ([0x5D, 0x34, 0xF2], .eorAbsX 0xF234)]) = true := by decide

/-- Control flow (spec/30_encoding.md R71, R76, R83). -/
theorem test_decode_control : decodesTo
    ([([0x10, 0x9C], .bpl 0x9C), ([0x20, 0x34, 0xF2], .jsr 0xF234), ([0x30, 0x9C], .bmi 0x9C),
     ([0x4C, 0x34, 0xF2], .jmpAbs 0xF234), ([0x60], .rts), ([0x6C, 0x34, 0xF2], .jmpInd 0xF234),
     ([0x90, 0x9C], .bcc 0x9C), ([0xB0, 0x9C], .bcs 0x9C), ([0xD0, 0x9C], .bne 0x9C), ([0xF0, 0x9C], .beq 0x9C)]) = true := by decide

/-- Stack, flag, no operation (spec/30_encoding.md R71, R76, R83). -/
theorem test_decode_stack_flag : decodesTo
    ([([0x18], .clc), ([0x38], .sec), ([0x48], .pha), ([0x68], .pla), ([0xEA], .nop)]) = true := by decide

/-- Decoded only (spec/30_encoding.md R71, R76, R83). -/
theorem test_decode_decoded_only : decodesTo
    ([([0x00], .brk), ([0x08], .php), ([0x24, 0x9C], .bitZp 0x9C), ([0x28], .plp),
     ([0x2C, 0x34, 0xF2], .bitAbs 0xF234), ([0x40], .rti), ([0x50, 0x9C], .bvc 0x9C), ([0x58], .cli),
     ([0x70, 0x9C], .bvs 0x9C), ([0x78], .sei), ([0xB8], .clv), ([0xD8], .cld), ([0xF8], .sed)]) = true := by decide

/-- The table's numbering: the opcode is bits 7..0, the low operand byte bits 15..8, the high one bits 23..16. -/
theorem test_decodeTableWord : decodeTableWord 24 0x20018D = some (.staAbs 0x2001) ∧ decodeTableWord 16 0xF685 = some (.staZp 0xF6) ∧
    decodeTableWord 8 0x60 = some .rts ∧ decodeTableWord 8 0x02 = none ∧ decodeTableWord 8 0xAD = some (.ldaAbs 0x0000) := by
  decide

/-- A byte with no entry, an instruction cut short, and no byte at all: each refused by name. -/
theorem test_decode_refusals : decode [0x02, 0x00] = .undefined 0x02 ∧ decode [0x8D, 0x02] = .truncated ⟨.sta, 3, .absolute⟩ ∧
    decode [] = .empty := by decide

/-! ### The Decoder (spec/95_test_vectors.md, vectors E) -/

theorem test_vector_E5 : decodeBuffer [0x02, 0xA9, 0x01, 0xFF, 0x60] 0xC000 =
    some [.placeholder 0xC000 0x02, .record ⟨0xC001, .lda, .immediate, 2, [0xA9, 0x01], .byte 0x01, .absent⟩,
      .placeholder 0xC003 0xFF, .record ⟨0xC004, .rts, .implied, 1, [0x60], .none, .absent⟩] := by decide
/-- The fields of a placeholder (spec/92_eei_decisions.md D21). -/
theorem test_placeholder_fields :
    (decodeBuffer [0x02] 0xC000).map (fun items => items.map fun it => (it.mnemonic, it.mode, it.size)) =
      some [(.undefined, .implied, 1)] ∧
    (decodeBuffer [0x02] 0xC000).map (fun items => items.map fun it => (it.address, it.raw, it.operand, it.target)) =
      some [(0xC000, [0x02], .none, .absent)] := by decide
theorem test_vector_E6 : decodeBuffer [0x8D, 0x02] 0x8000 = some [] := by decide
theorem test_vector_E8 : decodeBuffer [0xD0, 0x80, 0xF0, 0x7F] 0x8000 =
    some [.record ⟨0x8000, .bne, .relative, 2, [0xD0, 0x80], .byte 0x80, .resolved 0x7F82⟩,
      .record ⟨0x8002, .beq, .relative, 2, [0xF0, 0x7F], .byte 0x7F, .resolved 0x8083⟩] := by decide
theorem test_vector_E9 : decodeBuffer [0xD0, 0x80] 0x0000 =
    some [.record ⟨0x0000, .bne, .relative, 2, [0xD0, 0x80], .byte 0x80, .invalid⟩] := by decide
theorem test_vector_E10 : decodeBuffer [0xF0, 0x7F] 0xFFFE =
    some [.record ⟨0xFFFE, .beq, .relative, 2, [0xF0, 0x7F], .byte 0x7F, .invalid⟩] := by decide
theorem test_vector_E11 : decodeBuffer [0x6C, 0x00, 0x03, 0x24, 0x10, 0x00] 0x9000 =
    some [.record ⟨0x9000, .jmp, .indirect, 3, [0x6C, 0x00, 0x03], .word 0x0300, .resolved 0x0300⟩,
      .record ⟨0x9003, .bit, .zeroPage, 2, [0x24, 0x10], .byte 0x10, .absent⟩,
      .record ⟨0x9005, .brk, .implied, 1, [0x00], .none, .absent⟩] := by decide

/-! ### Single steps (spec/95_test_vectors.md, Parts 1 and 2: each theorem is the vector of its name) -/

/-- The baseline with these bytes at `at`, these data bytes, and `PC` there. -/
def place (pc : Addr) (code : List Byte) (data : List (Nat × Byte)) : State :=
  { State.reset with pc := pc, mem := (data.foldl (fun (m : Memory) p => m.write p.1 p.2) []).writeBytes pc.toNat code }

/-- What a vector lists of the state after the step. -/
structure Seen where
  a : Byte
  x : Byte
  y : Byte
  sp : Byte
  pc : Addr
  n : Bool
  z : Bool
  c : Bool
  depth : Nat
  steps : Nat
  outcome : RunOutcome
  deriving DecidableEq, Repr

/-- The state one step leads to. -/
def next? (s : State) : Option State :=
  match step s with
  | .next t => some t
  | .fault _ => none
  | .refused _ => none

/-- One step from `s` leads to what the vector lists, with these bytes in memory. -/
def gives (s : State) (seen : Seen) (bytes : List (Nat × Byte)) : Bool :=
  match next? s with
  | some t => decide (seen = ⟨t.a, t.x, t.y, t.sp, t.pc, t.n, t.z, t.c, t.depth, t.steps, t.outcome⟩) &&
      bytes.all fun p => decide (t.mem.read p.1 = p.2)
  | none => false

theorem test_vector_S4_1 :
    gives { place 0x8000 [0xA9, 0x00] [] with a := 0x55, n := true, z := false }
      ⟨0x00, 0x00, 0x00, 0xFF, 0x8002, false, true, false, 0, 1, .running⟩ [] = true := by decide
theorem test_vector_S4_2 :
    gives { place 0x8000 [0xA9, 0x80] [] with a := 0x55, n := false, z := true }
      ⟨0x80, 0x00, 0x00, 0xFF, 0x8002, true, false, false, 0, 1, .running⟩ [] = true := by decide
theorem test_vector_S4_3 :
    gives { place 0x8000 [0xC9, 0x30] [] with a := 0x20, c := true }
      ⟨0x20, 0x00, 0x00, 0xFF, 0x8002, true, false, false, 0, 1, .running⟩ [] = true := by decide
theorem test_vector_L2 :
    gives { place 0x8000 [0xB5, 0xF0] [(0x0010, 0x99), (0x0110, 0x11)] with x := 0x20 }
      ⟨0x99, 0x20, 0x00, 0xFF, 0x8002, true, false, false, 0, 1, .running⟩ [] = true := by decide
theorem test_vector_L5 :
    gives { place 0x8000 [0xBD, 0xFF, 0xFF] [] with a := 0x55, x := 0x01 }
      ⟨0x55, 0x01, 0x00, 0xFF, 0x8000, false, false, false, 0, 0, .addressSpaceViolation 0x10000 0x8000⟩ [] = true := by decide
theorem test_vector_L6 :
    gives { place 0x8000 [0xB9, 0x00, 0xFF] [(0xFFFF, 0x80)] with y := 0xFF }
      ⟨0x80, 0x00, 0xFF, 0xFF, 0x8003, true, false, false, 0, 1, .running⟩ [] = true := by decide
theorem test_vector_L7 :
    gives { place 0x8000 [0xA1, 0xFE] [(0x0000, 0x12), (0x00FF, 0x34), (0x0100, 0x77), (0x1234, 0xAB), (0x7734, 0xCD)] with x := 0x01 }
      ⟨0xAB, 0x01, 0x00, 0xFF, 0x8002, true, false, false, 0, 1, .running⟩ [] = true := by decide
theorem test_vector_L9 :
    gives { place 0x8000 [0xB1, 0x10] [(0x0010, 0xFF), (0x0011, 0xFF)] with a := 0x55, y := 0x01 }
      ⟨0x55, 0x00, 0x01, 0xFF, 0x8000, false, false, false, 0, 0, .addressSpaceViolation 0x10000 0x8000⟩ [] = true := by decide
theorem test_vector_L10 :
    gives { place 0x8000 [0xB1, 0xFF] [(0x0000, 0x30), (0x00FF, 0x00), (0x3000, 0x42)] with y := 0x00 }
      ⟨0x42, 0x00, 0x00, 0xFF, 0x8002, false, false, false, 0, 1, .running⟩ [] = true := by decide
theorem test_vector_L12 :
    gives { place 0x8000 [0xB6, 0x80] [(0x0010, 0x07)] with y := 0x90 }
      ⟨0x00, 0x07, 0x90, 0xFF, 0x8002, false, false, false, 0, 1, .running⟩ [] = true := by decide
theorem test_vector_L13 :
    gives { place 0x8000 [0xBE, 0x00, 0x20] [(0x2005, 0x00)] with x := 0x09, y := 0x05, z := false }
      ⟨0x00, 0x00, 0x05, 0xFF, 0x8003, false, true, false, 0, 1, .running⟩ [] = true := by decide
theorem test_vector_L15 :
    gives { place 0x8000 [0xB4, 0x10] [(0x0014, 0xF0)] with x := 0x04 }
      ⟨0x00, 0x04, 0xF0, 0xFF, 0x8002, true, false, false, 0, 1, .running⟩ [] = true := by decide
theorem test_vector_L16 :
    gives { place 0x8000 [0xBC, 0xF0, 0xFF] [] with x := 0x10 }
      ⟨0x00, 0x10, 0x00, 0xFF, 0x8000, false, false, false, 0, 0, .addressSpaceViolation 0x10000 0x8000⟩ [] = true := by decide
theorem test_vector_L17 :
    gives { place 0x8000 [0x85, 0xF6] [] with a := 0x02, n := true, z := true, c := true }
      ⟨0x02, 0x00, 0x00, 0xFF, 0x8002, true, true, true, 0, 1, .running⟩ [(0x00F6, 0x02)] = true := by decide
theorem test_vector_L19 :
    gives { place 0x8000 [0x95, 0xFF] [] with a := 0xAA, x := 0x02 }
      ⟨0xAA, 0x02, 0x00, 0xFF, 0x8002, false, false, false, 0, 1, .running⟩ [(0x0001, 0xAA)] = true := by decide
theorem test_vector_L20 :
    gives { place 0x8000 [0x9D, 0x00, 0x01] [] with a := 0xBB, x := 0xFF }
      ⟨0xBB, 0xFF, 0x00, 0xFF, 0x8003, false, false, false, 0, 1, .running⟩ [(0x01FF, 0xBB)] = true := by decide
theorem test_vector_L21 :
    gives { place 0x8000 [0x99, 0x01, 0xFF] [] with a := 0xBB, y := 0xFF }
      ⟨0xBB, 0x00, 0xFF, 0xFF, 0x8000, false, false, false, 0, 0, .addressSpaceViolation 0x10000 0x8000⟩ [] = true := by decide
theorem test_vector_L22 :
    gives { place 0x8000 [0x81, 0x20] [(0x0024, 0x00), (0x0025, 0x03)] with a := 0xCC, x := 0x04 }
      ⟨0xCC, 0x04, 0x00, 0xFF, 0x8002, false, false, false, 0, 1, .running⟩ [(0x0300, 0xCC)] = true := by decide
theorem test_vector_L23 :
    gives { place 0x8000 [0x91, 0x20] [(0x0020, 0xF8), (0x0021, 0x02)] with a := 0xDD, y := 0x10 }
      ⟨0xDD, 0x00, 0x10, 0xFF, 0x8002, false, false, false, 0, 1, .running⟩ [(0x0308, 0xDD)] = true := by decide
theorem test_vector_L24 :
    gives { place 0x8000 [0x8D, 0x01, 0x80] [] with a := 0xEA }
      ⟨0xEA, 0x00, 0x00, 0xFF, 0x8003, false, false, false, 0, 1, .running⟩ [(0x8001, 0xEA)] = true := by decide
theorem test_vector_L26 :
    gives { place 0x8000 [0x96, 0xF0] [] with x := 0x44, y := 0x20 }
      ⟨0x00, 0x44, 0x20, 0xFF, 0x8002, false, false, false, 0, 1, .running⟩ [(0x0010, 0x44)] = true := by decide
theorem test_vector_L27 :
    gives { place 0x8000 [0x8E, 0xFF, 0xFF] [] with x := 0x55 }
      ⟨0x00, 0x55, 0x00, 0xFF, 0x8003, false, false, false, 0, 1, .running⟩ [(0xFFFF, 0x55)] = true := by decide
theorem test_vector_L28 :
    gives { place 0x8000 [0x84, 0x00] [] with y := 0x66 }
      ⟨0x00, 0x00, 0x66, 0xFF, 0x8002, false, false, false, 0, 1, .running⟩ [(0x0000, 0x66)] = true := by decide
theorem test_vector_L29 :
    gives { place 0x8000 [0x94, 0x10] [] with x := 0x01, y := 0x77 }
      ⟨0x00, 0x01, 0x77, 0xFF, 0x8002, false, false, false, 0, 1, .running⟩ [(0x0011, 0x77)] = true := by decide
theorem test_vector_L31 :
    gives { place 0x8000 [0xAA] [] with a := 0x90 }
      ⟨0x90, 0x90, 0x00, 0xFF, 0x8001, true, false, false, 0, 1, .running⟩ [] = true := by decide
theorem test_vector_L32 :
    gives { place 0x8000 [0xA8] [] with a := 0x00, y := 0x33, n := true }
      ⟨0x00, 0x00, 0x00, 0xFF, 0x8001, false, true, false, 0, 1, .running⟩ [] = true := by decide
theorem test_vector_L33 :
    gives { place 0x8000 [0x8A] [] with a := 0xFF, x := 0x7F, n := true }
      ⟨0x7F, 0x7F, 0x00, 0xFF, 0x8001, false, false, false, 0, 1, .running⟩ [] = true := by decide
theorem test_vector_L34 :
    gives { place 0x8000 [0x98] [] with a := 0x01, y := 0x80 }
      ⟨0x80, 0x00, 0x80, 0xFF, 0x8001, true, false, false, 0, 1, .running⟩ [] = true := by decide
theorem test_vector_L35 :
    gives { place 0x8000 [0xBA] [] with x := 0x12, sp := 0x00 }
      ⟨0x00, 0x00, 0x00, 0x00, 0x8001, false, true, false, 0, 1, .running⟩ [] = true := by decide
theorem test_vector_L36 :
    gives { place 0x8000 [0x9A] [] with x := 0x00, sp := 0x20, n := true, z := false }
      ⟨0x00, 0x00, 0x00, 0x00, 0x8001, true, false, false, 0, 1, .running⟩ [] = true := by decide
theorem test_vector_A2 :
    gives { place 0x8000 [0x69, 0x01] [] with a := 0xFF }
      ⟨0x00, 0x00, 0x00, 0xFF, 0x8002, false, true, true, 0, 1, .running⟩ [] = true := by decide
theorem test_vector_A4 :
    gives { place 0x8000 [0x69, 0xFF] [] with a := 0xFF, c := true }
      ⟨0xFF, 0x00, 0x00, 0xFF, 0x8002, true, false, true, 0, 1, .running⟩ [] = true := by decide
theorem test_vector_A8 :
    gives { place 0x8000 [0x71, 0x40] [(0x0040, 0xFF), (0x0041, 0x02), (0x0300, 0x0E)] with a := 0x01, y := 0x01, c := true }
      ⟨0x10, 0x00, 0x01, 0xFF, 0x8002, false, false, false, 0, 1, .running⟩ [] = true := by decide
theorem test_vector_A10 :
    gives { place 0x8000 [0xE9, 0x30] [] with a := 0x50, c := false }
      ⟨0x1F, 0x00, 0x00, 0xFF, 0x8002, false, false, true, 0, 1, .running⟩ [] = true := by decide
theorem test_vector_A13 :
    gives { place 0x8000 [0xE9, 0xFF] [] with a := 0x00, c := false }
      ⟨0x00, 0x00, 0x00, 0xFF, 0x8002, false, true, false, 0, 1, .running⟩ [] = true := by decide
theorem test_vector_A16 :
    gives { place 0x8000 [0xF9, 0x00, 0x03] [(0x0303, 0x20)] with a := 0x10, y := 0x03, c := true }
      ⟨0xF0, 0x00, 0x03, 0xFF, 0x8003, true, false, false, 0, 1, .running⟩ [] = true := by decide
theorem test_vector_A19 :
    gives { place 0x8000 [0xC9, 0x7F] [] with a := 0xFF }
      ⟨0xFF, 0x00, 0x00, 0xFF, 0x8002, true, false, true, 0, 1, .running⟩ [] = true := by decide
theorem test_vector_A22 :
    gives { place 0x8000 [0xD5, 0xFF] [(0x0000, 0x09)] with a := 0x09, x := 0x01 }
      ⟨0x09, 0x01, 0x00, 0xFF, 0x8002, false, true, true, 0, 1, .running⟩ [] = true := by decide
theorem test_vector_A26 :
    gives { place 0x8000 [0xC1, 0x10] [(0x0012, 0x00), (0x0013, 0x04), (0x0400, 0x04)] with a := 0x03, x := 0x02 }
      ⟨0x03, 0x02, 0x00, 0xFF, 0x8002, true, false, false, 0, 1, .running⟩ [] = true := by decide
theorem test_vector_A27 :
    gives { place 0x8000 [0xD1, 0x10] [(0x0010, 0x00), (0x0011, 0x04), (0x0401, 0x04)] with a := 0x05, y := 0x01 }
      ⟨0x05, 0x00, 0x01, 0xFF, 0x8002, false, false, true, 0, 1, .running⟩ [] = true := by decide
theorem test_vector_A29 :
    gives { place 0x8000 [0xE0, 0x11] [] with x := 0x10, c := true }
      ⟨0x00, 0x10, 0x00, 0xFF, 0x8002, true, false, false, 0, 1, .running⟩ [] = true := by decide
theorem test_vector_A31 :
    gives { place 0x8000 [0xEC, 0x00, 0x03] [(0x0300, 0x00)] with x := 0x00, c := false }
      ⟨0x00, 0x00, 0x00, 0xFF, 0x8003, false, true, true, 0, 1, .running⟩ [] = true := by decide
theorem test_vector_A32 :
    gives { place 0x8000 [0xC0, 0x05] [] with y := 0x09 }
      ⟨0x00, 0x00, 0x09, 0xFF, 0x8002, false, false, true, 0, 1, .running⟩ [] = true := by decide
theorem test_vector_A33 :
    gives { place 0x8000 [0xC4, 0x20] [(0x0020, 0x02)] with y := 0x01 }
      ⟨0x00, 0x00, 0x01, 0xFF, 0x8002, true, false, false, 0, 1, .running⟩ [] = true := by decide
theorem test_vector_A35 :
    gives { place 0x8000 [0xE6, 0x10] [(0x0010, 0xFF)] with c := true }
      ⟨0x00, 0x00, 0x00, 0xFF, 0x8002, false, true, true, 0, 1, .running⟩ [(0x0010, 0x00)] = true := by decide
theorem test_vector_A36 :
    gives { place 0x8000 [0xF6, 0x10] [(0x0011, 0x7F)] with x := 0x01 }
      ⟨0x00, 0x01, 0x00, 0xFF, 0x8002, true, false, false, 0, 1, .running⟩ [(0x0011, 0x80)] = true := by decide
theorem test_vector_A38 :
    gives { place 0x8000 [0xFE, 0xFF, 0xFF] [] with x := 0x01 }
      ⟨0x00, 0x01, 0x00, 0xFF, 0x8000, false, false, false, 0, 0, .addressSpaceViolation 0x10000 0x8000⟩ [] = true := by decide
theorem test_vector_A39 :
    gives (place 0x8000 [0xC6, 0x10] [(0x0010, 0x00)])
      ⟨0x00, 0x00, 0x00, 0xFF, 0x8002, true, false, false, 0, 1, .running⟩ [(0x0010, 0xFF)] = true := by decide
theorem test_vector_A42 :
    gives { place 0x8000 [0xDE, 0x00, 0x03] [(0x03FF, 0x10)] with x := 0xFF }
      ⟨0x00, 0xFF, 0x00, 0xFF, 0x8003, false, false, false, 0, 1, .running⟩ [(0x03FF, 0x0F)] = true := by decide
theorem test_vector_A43 :
    gives { place 0x8000 [0xE8] [] with x := 0xFF }
      ⟨0x00, 0x00, 0x00, 0xFF, 0x8001, false, true, false, 0, 1, .running⟩ [] = true := by decide
theorem test_vector_A45 :
    gives { place 0x8000 [0xC8] [] with y := 0xFF }
      ⟨0x00, 0x00, 0x00, 0xFF, 0x8001, false, true, false, 0, 1, .running⟩ [] = true := by decide
theorem test_vector_A46 :
    gives { place 0x8000 [0xCA] [] with x := 0x00 }
      ⟨0x00, 0xFF, 0x00, 0xFF, 0x8001, true, false, false, 0, 1, .running⟩ [] = true := by decide
theorem test_vector_A48 :
    gives { place 0x8000 [0x88] [] with y := 0x80 }
      ⟨0x00, 0x00, 0x7F, 0xFF, 0x8001, false, false, false, 0, 1, .running⟩ [] = true := by decide
theorem test_vector_B2 :
    gives { place 0x8000 [0x29, 0xFF] [] with a := 0x80, z := true }
      ⟨0x80, 0x00, 0x00, 0xFF, 0x8002, true, false, false, 0, 1, .running⟩ [] = true := by decide
theorem test_vector_B4 :
    gives { place 0x8000 [0x31, 0x10] [(0x0010, 0x00), (0x0011, 0x03), (0x0302, 0xF1)] with a := 0x0F, y := 0x02 }
      ⟨0x01, 0x00, 0x02, 0xFF, 0x8002, false, false, false, 0, 1, .running⟩ [] = true := by decide
theorem test_vector_B5 :
    gives { place 0x8000 [0x09, 0x80] [] with a := 0x01 }
      ⟨0x81, 0x00, 0x00, 0xFF, 0x8002, true, false, false, 0, 1, .running⟩ [] = true := by decide
theorem test_vector_B7 :
    gives { place 0x8000 [0x1D, 0x00, 0x03] [(0x0301, 0x01)] with a := 0x10, x := 0x01 }
      ⟨0x11, 0x01, 0x00, 0xFF, 0x8003, false, false, false, 0, 1, .running⟩ [] = true := by decide
theorem test_vector_B8 :
    gives { place 0x8000 [0x49, 0xFF] [] with a := 0x55 }
      ⟨0xAA, 0x00, 0x00, 0xFF, 0x8002, true, false, false, 0, 1, .running⟩ [] = true := by decide
theorem test_vector_B10 :
    gives { place 0x8000 [0x41, 0x10] [(0x0000, 0x00), (0x0001, 0x03), (0x0300, 0x0F)] with a := 0xFF, x := 0xF0 }
      ⟨0xF0, 0xF0, 0x00, 0xFF, 0x8002, true, false, false, 0, 1, .running⟩ [] = true := by decide
theorem test_vector_B11 :
    gives { place 0x8000 [0x0A] [] with a := 0x81 }
      ⟨0x02, 0x00, 0x00, 0xFF, 0x8001, false, false, true, 0, 1, .running⟩ [] = true := by decide
theorem test_vector_B14 :
    gives { place 0x8000 [0x06, 0x10] [(0x0010, 0xC0)] with a := 0x11 }
      ⟨0x11, 0x00, 0x00, 0xFF, 0x8002, true, false, true, 0, 1, .running⟩ [(0x0010, 0x80)] = true := by decide
theorem test_vector_B16 :
    gives { place 0x8000 [0x4A] [] with a := 0x01 }
      ⟨0x00, 0x00, 0x00, 0xFF, 0x8001, false, true, true, 0, 1, .running⟩ [] = true := by decide
theorem test_vector_B19 :
    gives { place 0x8000 [0x5E, 0x00, 0x03] [(0x0302, 0x03)] with x := 0x02 }
      ⟨0x00, 0x02, 0x00, 0xFF, 0x8003, false, false, true, 0, 1, .running⟩ [(0x0302, 0x01)] = true := by decide
theorem test_vector_B20 :
    gives { place 0x8000 [0x2A] [] with a := 0x40, c := true }
      ⟨0x81, 0x00, 0x00, 0xFF, 0x8001, true, false, false, 0, 1, .running⟩ [] = true := by decide
theorem test_vector_B24 :
    gives { place 0x8000 [0x3E, 0x00, 0x03] [(0x0301, 0x55)] with x := 0x01, c := false }
      ⟨0x00, 0x01, 0x00, 0xFF, 0x8003, true, false, false, 0, 1, .running⟩ [(0x0301, 0xAA)] = true := by decide
theorem test_vector_B25 :
    gives { place 0x8000 [0x6A] [] with a := 0x01, c := false }
      ⟨0x00, 0x00, 0x00, 0xFF, 0x8001, false, true, true, 0, 1, .running⟩ [] = true := by decide
theorem test_vector_B28 :
    gives { place 0x8000 [0x66, 0x10] [(0x0010, 0xFE)] with c := true }
      ⟨0x00, 0x00, 0x00, 0xFF, 0x8002, true, false, false, 0, 1, .running⟩ [(0x0010, 0xFF)] = true := by decide
theorem test_vector_J1 :
    gives { place 0x8000 [0x90, 0x05] [] with c := false }
      ⟨0x00, 0x00, 0x00, 0xFF, 0x8007, false, false, false, 0, 1, .running⟩ [] = true := by decide
theorem test_vector_J2 :
    gives { place 0x8000 [0x90, 0x05] [] with c := true }
      ⟨0x00, 0x00, 0x00, 0xFF, 0x8002, false, false, true, 0, 1, .running⟩ [] = true := by decide
theorem test_vector_J3 :
    gives { place 0x8000 [0xB0, 0xFE] [] with c := true }
      ⟨0x00, 0x00, 0x00, 0xFF, 0x8000, false, false, true, 0, 1, .running⟩ [] = true := by decide
theorem test_vector_J4 :
    gives { place 0x8000 [0xB0, 0xFE] [] with c := false }
      ⟨0x00, 0x00, 0x00, 0xFF, 0x8002, false, false, false, 0, 1, .running⟩ [] = true := by decide
theorem test_vector_J9 :
    gives { place 0x8000 [0x30, 0x00] [] with n := true }
      ⟨0x00, 0x00, 0x00, 0xFF, 0x8002, true, false, false, 0, 1, .running⟩ [] = true := by decide
theorem test_vector_J10 :
    gives { place 0x8000 [0x30, 0x10] [] with n := false }
      ⟨0x00, 0x00, 0x00, 0xFF, 0x8002, false, false, false, 0, 1, .running⟩ [] = true := by decide
theorem test_vector_J11 :
    gives { place 0x8000 [0x10, 0xFC] [] with n := false }
      ⟨0x00, 0x00, 0x00, 0xFF, 0x7FFE, false, false, false, 0, 1, .running⟩ [] = true := by decide
theorem test_vector_J12 :
    gives { place 0x8000 [0x10, 0xFC] [] with n := true }
      ⟨0x00, 0x00, 0x00, 0xFF, 0x8002, true, false, false, 0, 1, .running⟩ [] = true := by decide
theorem test_vector_J13 :
    gives { place 0x0000 [0xD0, 0x80] [] with z := false }
      ⟨0x00, 0x00, 0x00, 0xFF, 0x0000, false, false, false, 0, 0, .addressSpaceViolation (-126) 0x0000⟩ [] = true := by decide
theorem test_vector_J14 :
    gives { place 0x0000 [0xD0, 0x80] [] with z := true }
      ⟨0x00, 0x00, 0x00, 0xFF, 0x0002, false, true, false, 0, 1, .running⟩ [] = true := by decide
theorem test_vector_J16 :
    gives { place 0xFFF0 [0xF0, 0x7F] [] with z := true }
      ⟨0x00, 0x00, 0x00, 0xFF, 0xFFF0, false, true, false, 0, 0, .addressSpaceViolation 0x10071 0xFFF0⟩ [] = true := by decide
theorem test_vector_J19 :
    gives { place 0xFFFE [0xF0, 0xF0] [] with z := false }
      ⟨0x00, 0x00, 0x00, 0xFF, 0xFFFE, false, false, false, 0, 0, .addressSpaceViolation 0x10000 0xFFFE⟩ [] = true := by decide
theorem test_vector_J21 :
    gives (place 0x8000 [0x4C, 0x34, 0x12] [])
      ⟨0x00, 0x00, 0x00, 0xFF, 0x1234, false, false, false, 0, 1, .running⟩ [] = true := by decide
theorem test_vector_J24 :
    gives (place 0xFFFE [0x4C, 0x00] [])
      ⟨0x00, 0x00, 0x00, 0xFF, 0xFFFE, false, false, false, 0, 0, .addressSpaceViolation 0x10000 0xFFFE⟩ [] = true := by decide
theorem test_vector_J26 :
    gives { place 0x8000 [0x20, 0x00, 0x90] [] with sp := 0x01 }
      ⟨0x00, 0x00, 0x00, 0xFF, 0x9000, false, false, false, 1, 1, .running⟩ [(0x0100, 0x02), (0x0101, 0x80)] = true := by decide
theorem test_vector_J27 :
    gives { place 0x8000 [0x20, 0x00, 0x90] [] with sp := 0x00 }
      ⟨0x00, 0x00, 0x00, 0xFE, 0x9000, false, false, false, 1, 1, .running⟩ [(0x0100, 0x80), (0x01FF, 0x02)] = true := by decide
theorem test_vector_J31 :
    gives { place 0x8010 [0x60] [(0x01FE, 0x02), (0x01FF, 0x80)] with sp := 0xFD }
      ⟨0x00, 0x00, 0x00, 0xFD, 0x8010, false, false, false, 0, 1, .returned⟩ [] = true := by decide
theorem test_vector_J32 :
    gives { place 0x8010 [0x60] [(0x0100, 0xFF), (0x0101, 0x12)] with sp := 0xFF, depth := 1 }
      ⟨0x00, 0x00, 0x00, 0x01, 0x1300, false, false, false, 0, 1, .running⟩ [] = true := by decide
theorem test_vector_K1 :
    gives { place 0x8000 [0x48] [] with a := 0x5A }
      ⟨0x5A, 0x00, 0x00, 0xFE, 0x8001, false, false, false, 0, 1, .running⟩ [(0x01FF, 0x5A)] = true := by decide
theorem test_vector_K2 :
    gives { place 0x8000 [0x48] [] with a := 0xA5, sp := 0x00 }
      ⟨0xA5, 0x00, 0x00, 0xFF, 0x8001, false, false, false, 0, 1, .running⟩ [(0x0100, 0xA5)] = true := by decide
theorem test_vector_K3 :
    gives { place 0x8000 [0x68] [(0x01FF, 0x00)] with a := 0x77, sp := 0xFE }
      ⟨0x00, 0x00, 0x00, 0xFF, 0x8001, false, true, false, 0, 1, .running⟩ [] = true := by decide
theorem test_vector_K4 :
    gives { place 0x8000 [0x68] [(0x0100, 0x80)] with sp := 0xFF }
      ⟨0x80, 0x00, 0x00, 0x00, 0x8001, true, false, false, 0, 1, .running⟩ [] = true := by decide
theorem test_vector_K5 :
    gives { place 0x8000 [0x18] [] with n := true, c := true }
      ⟨0x00, 0x00, 0x00, 0xFF, 0x8001, true, false, false, 0, 1, .running⟩ [] = true := by decide
theorem test_vector_K7 :
    gives { place 0x8000 [0x38] [] with z := true, c := false }
      ⟨0x00, 0x00, 0x00, 0xFF, 0x8001, false, true, true, 0, 1, .running⟩ [] = true := by decide
theorem test_vector_K8 :
    gives { place 0x8000 [0xEA] [] with a := 0x01, x := 0x02, y := 0x03, n := true, z := true, c := true }
      ⟨0x01, 0x02, 0x03, 0xFF, 0x8001, true, true, true, 0, 1, .running⟩ [] = true := by decide
theorem test_vector_K9 :
    gives (place 0xFFFF [0xEA] [])
      ⟨0x00, 0x00, 0x00, 0xFF, 0xFFFF, false, false, false, 0, 0, .addressSpaceViolation 0x10000 0xFFFF⟩ [] = true := by decide
theorem test_vector_D1 :
    gives { place 0x8000 [0x24, 0x10] [] with a := 0x11, sp := 0xF0 }
      ⟨0x11, 0x00, 0x00, 0xF0, 0x8000, false, false, false, 0, 0, .unsupportedOpcode 0x24 0x8000⟩ [] = true := by decide
theorem test_vector_D2 :
    gives { place 0x8000 [0x2C, 0x00, 0x03] [] with a := 0x11, sp := 0xF0 }
      ⟨0x11, 0x00, 0x00, 0xF0, 0x8000, false, false, false, 0, 0, .unsupportedOpcode 0x2C 0x8000⟩ [] = true := by decide
theorem test_vector_D3 :
    gives { place 0x8000 [0x00] [] with a := 0x11, sp := 0xF0 }
      ⟨0x11, 0x00, 0x00, 0xF0, 0x8000, false, false, false, 0, 0, .unsupportedOpcode 0x00 0x8000⟩ [] = true := by decide
theorem test_vector_D4 :
    gives { place 0x8000 [0x40] [] with a := 0x11, sp := 0xF0 }
      ⟨0x11, 0x00, 0x00, 0xF0, 0x8000, false, false, false, 0, 0, .unsupportedOpcode 0x40 0x8000⟩ [] = true := by decide
theorem test_vector_D5 :
    gives { place 0x8000 [0x08] [] with a := 0x11, sp := 0xF0 }
      ⟨0x11, 0x00, 0x00, 0xF0, 0x8000, false, false, false, 0, 0, .unsupportedOpcode 0x08 0x8000⟩ [] = true := by decide
theorem test_vector_D6 :
    gives { place 0x8000 [0x28] [] with a := 0x11, sp := 0xF0 }
      ⟨0x11, 0x00, 0x00, 0xF0, 0x8000, false, false, false, 0, 0, .unsupportedOpcode 0x28 0x8000⟩ [] = true := by decide
theorem test_vector_D7 :
    gives { place 0x8000 [0x50, 0xFE] [] with a := 0x11, sp := 0xF0 }
      ⟨0x11, 0x00, 0x00, 0xF0, 0x8000, false, false, false, 0, 0, .unsupportedOpcode 0x50 0x8000⟩ [] = true := by decide
theorem test_vector_D8 :
    gives { place 0x8000 [0x70, 0x10] [] with a := 0x11, sp := 0xF0 }
      ⟨0x11, 0x00, 0x00, 0xF0, 0x8000, false, false, false, 0, 0, .unsupportedOpcode 0x70 0x8000⟩ [] = true := by decide
theorem test_vector_D9 :
    gives { place 0x8000 [0xB8] [] with a := 0x11, sp := 0xF0 }
      ⟨0x11, 0x00, 0x00, 0xF0, 0x8000, false, false, false, 0, 0, .unsupportedOpcode 0xB8 0x8000⟩ [] = true := by decide
theorem test_vector_D10 :
    gives { place 0x8000 [0xD8] [] with a := 0x11, sp := 0xF0 }
      ⟨0x11, 0x00, 0x00, 0xF0, 0x8000, false, false, false, 0, 0, .unsupportedOpcode 0xD8 0x8000⟩ [] = true := by decide
theorem test_vector_D11 :
    gives { place 0x8000 [0xF8] [] with a := 0x11, sp := 0xF0 }
      ⟨0x11, 0x00, 0x00, 0xF0, 0x8000, false, false, false, 0, 0, .unsupportedOpcode 0xF8 0x8000⟩ [] = true := by decide
theorem test_vector_D12 :
    gives { place 0x8000 [0x58] [] with a := 0x11, sp := 0xF0 }
      ⟨0x11, 0x00, 0x00, 0xF0, 0x8000, false, false, false, 0, 0, .unsupportedOpcode 0x58 0x8000⟩ [] = true := by decide
theorem test_vector_D13 :
    gives { place 0x8000 [0x78] [] with a := 0x11, sp := 0xF0 }
      ⟨0x11, 0x00, 0x00, 0xF0, 0x8000, false, false, false, 0, 0, .unsupportedOpcode 0x78 0x8000⟩ [] = true := by decide
theorem test_vector_D14 :
    gives { place 0x8000 [0x6C, 0x00, 0x03] [] with a := 0x11, sp := 0xF0 }
      ⟨0x11, 0x00, 0x00, 0xF0, 0x8000, false, false, false, 0, 0, .unsupportedOpcode 0x6C 0x8000⟩ [] = true := by decide
theorem test_vector_D17 :
    gives (place 0x8000 [0x80, 0x10] [])
      ⟨0x00, 0x00, 0x00, 0xFF, 0x8000, false, false, false, 0, 0, .unsupportedOpcode 0x80 0x8000⟩ [] = true := by decide
theorem test_vector_D20 :
    gives (place 0xFFFE [0x6C, 0x00] [])
      ⟨0x00, 0x00, 0x00, 0xFF, 0xFFFE, false, false, false, 0, 0, .unsupportedOpcode 0x6C 0xFFFE⟩ [] = true := by decide

/-- Vector G1: budget 0 ends before any fetch, even of a terminal RTS. -/
theorem test_vector_G1 :
    gives { place 0x8000 [0x60] [] with stepBudget := 0 }
      ⟨0x00, 0x00, 0x00, 0xFF, 0x8000, false, false, false, 0, 0, .budgetExceeded⟩ [] = true := by decide
/-- Vector G2: the RTS is the first and only instruction. -/
theorem test_vector_G2 :
    gives { place 0x8000 [0x60] [] with stepBudget := 1 }
      ⟨0x00, 0x00, 0x00, 0xFF, 0x8000, false, false, false, 0, 1, .returned⟩ [] = true := by decide

/-- The first step from reset, where nothing is loaded, fetches 0x00, which is BRK (vector G8's remark; log entries 5, 6). -/
theorem test_step_from_reset : next? State.reset = some { State.reset with outcome := .unsupportedOpcode 0x00 0x8000 } := by
  decide

/-- A step of an ended run is the model's one fault (spec/60_exceptions.md R212). -/
theorem test_step_ended : next? { State.reset with outcome := .returned } = none := by decide

/-- An instruction placed by `withFetchWord` is what the next step runs: in place, and at address 0 where three bytes do not fit. -/
theorem test_withFetchWord :
    next? (State.reset.withFetchWord 16 0x80A9) =
      some { State.reset.withFetchWord 16 0x80A9 with a := 0x80, n := true, pc := 0x8002, steps := 1 } ∧
    (State.reset.withFetchWord 16 0x80A9).pc = 0x8000 ∧
    ({ State.reset with pc := 0xFFFE, outcome := .returned, steps := 100 }.withFetchWord 8 0xEA).pc = 0x0000 ∧
    (next? ({ State.reset with pc := 0xFFFE, outcome := .returned, steps := 100 }.withFetchWord 8 0xEA)).isSome = true := by
  decide

/-- The flags as one byte (spec/10_state.md R35): N is bit 7, Z bit 1, C bit 0. -/
theorem test_packedFlags : { State.reset with n := true, c := true }.packedFlags = 0x81 ∧
    { State.reset with z := true }.packedFlags = 0x02 := by decide

/-- The code wins an overlap with the snapshot, the snapshot one with the fill (spec/70_reset_and_hazards.md R233). -/
theorem test_mem0_order :
    (launch { baseline with fill := [(0x8000, 0x11), (0x8001, 0x11), (0x8002, 0x11)], snapshot := [(0x8001, 0x22), (0x8002, 0x22)]
                            code := [0x33], loadAddress := some 0x8002 }).map
      (fun s => [s.mem.read 0x8000, s.mem.read 0x8001, s.mem.read 0x8002, s.mem.read 0x8003]) =
    some [0x11, 0x22, 0x33, 0x00] := by decide

/-! ### Witnesses: for each statement with hypotheses, values that meet them together, at the edges of their ranges -/

/-- A state to witness with: running, in its budget, operands at hand. -/
def w : State :=
  { place 0xFF00 [] [(0x0010, 0xFF), (0x0011, 0xFF), (0x00FF, 0x00)] with a := 0x80, x := 0xFF, y := 0x01, c := true, depth := 1 }

theorem witness_DecodeOfEncode : (Instr.ldaAbsX 0xFFFF).wf = true ∧ (Instr.brk).wf = true := by decide

theorem witness_EncodeOfDecode : decode [0xA9, 0x80, 0x02] = .instr (.ldaImm 0x80) [0x02] ∧ decode [0x60] = .instr .rts [] := by
  decide

theorem witness_OperandAssembly :
    decode (0xA9 :: 0xFF :: 0x00 :: []) = .instr (.ldaImm 0xFF) [0x00] ∧ (Instr.ldaImm 0xFF).mode = .immediate ∧
    decode (0xA5 :: 0xFF :: 0x00 :: []) = .instr (.ldaZp 0xFF) [0x00] ∧ (Instr.ldaZp 0xFF).mode = .zeroPage ∧
    decode (0xB5 :: 0xFF :: 0x00 :: []) = .instr (.ldaZpX 0xFF) [0x00] ∧ (Instr.ldaZpX 0xFF).mode = .zeroPageX ∧
    decode (0xB6 :: 0xFF :: 0x00 :: []) = .instr (.ldxZpY 0xFF) [0x00] ∧ (Instr.ldxZpY 0xFF).mode = .zeroPageY ∧
    decode (0xA1 :: 0xFF :: 0x00 :: []) = .instr (.ldaIndX 0xFF) [0x00] ∧ (Instr.ldaIndX 0xFF).mode = .indexedIndirect ∧
    decode (0xB1 :: 0xFF :: 0x00 :: []) = .instr (.ldaIndY 0xFF) [0x00] ∧ (Instr.ldaIndY 0xFF).mode = .indirectIndexed ∧
    decode (0xAD :: 0xFF :: 0x00 :: []) = .instr (.ldaAbs 0x00FF) [] ∧ (Instr.ldaAbs 0x00FF).mode = .absolute ∧
    decode (0xBD :: 0x00 :: 0xFF :: []) = .instr (.ldaAbsX 0xFF00) [] ∧ (Instr.ldaAbsX 0xFF00).mode = .absoluteX ∧
    decode (0xB9 :: 0xFF :: 0xFF :: []) = .instr (.ldaAbsY 0xFFFF) [] ∧ (Instr.ldaAbsY 0xFFFF).mode = .absoluteY ∧
    decode (0x6C :: 0xFF :: 0x03 :: []) = .instr (.jmpInd 0x03FF) [] ∧ (Instr.jmpInd 0x03FF).mode = .indirect ∧
    decode (0xD0 :: 0x80 :: 0x00 :: []) = .instr (.bne 0x80) [0x00] ∧ (Instr.bne 0x80).mode = .relative := by decide

theorem witness_DescriptorSizes : opcodeTable 0x60 = some ⟨.rts, 1, .implied⟩ ∧ opcodeTable 0xA9 = some ⟨.lda, 2, .immediate⟩ ∧
    opcodeTable 0x8D = some ⟨.sta, 3, .absolute⟩ := by decide

theorem witness_UndefinedBytes : (0x02 : Byte) ∈ Claims.undefinedBytes ∧ (0xFF : Byte) ∈ Claims.undefinedBytes ∧ 65535 + 1 ≤ 65536 ∧
    Ready (place 0xFFFF [0x02] []) ∧ (place 0xFFFF [0x02] []).byteAt (place 0xFFFF [0x02] []).pc = 0x02 := by decide

theorem witness_DecoderRecords : 0xFFFD + (Instr.staAbs 0x2001).size ≤ 65536 ∧ 0 + (Instr.bne 0x80).size ≤ 65536 := by decide

theorem witness_DecoderLoop : 0xFFFF + ([] : List Byte).length ≤ 65535 ∧ 0xFFFF + (([] : List Byte).length + 1) ≤ 65536 ∧
    opcodeTable 0x02 = none ∧ opcodeTable 0xA9 = some ⟨.lda, 2, .immediate⟩ ∧
    ([] : List Byte).length + 1 < (Descriptor.mk .lda 2 .immediate).size ∧
    (Descriptor.mk .lda 2 .immediate).size ≤ [(0x80 : Byte)].length + 1 ∧ 65536 < 65536 + [(0x80 : Byte)].length := by
  decide

theorem witness_DecoderCoversBuffer :
    decodeBuffer [0x02, 0xA9, 0x01, 0x8D, 0x01] 0xFFFB =
      some [.placeholder 0xFFFB 0x02, .record ⟨0xFFFC, .lda, .immediate, 2, [0xA9, 0x01], .byte 0x01, .absent⟩] ∧
    ([.placeholder 0xFFFB 0x02, .record ⟨0xFFFC, .lda, .immediate, 2, [0xA9, 0x01], .byte 0x01, .absent⟩] : List DecodedItem) =
      [.placeholder 0xFFFB 0x02] ++
        DecodedItem.record ⟨0xFFFC, .lda, .immediate, 2, [0xA9, 0x01], .byte 0x01, .absent⟩ :: [] ∧
    DecodedItem.placeholder 0xFFFB 0x02 ∈
      ([.placeholder 0xFFFB 0x02, .record ⟨0xFFFC, .lda, .immediate, 2, [0xA9, 0x01], .byte 0x01, .absent⟩] : List DecodedItem) := by
  decide

theorem witness_StepRunsDecoded :
    Ready (place 0xFFFF [0xEA] []) ∧ decode (place 0xFFFF [0xEA] []).fetchWindow = .instr .nop [] ∧
    (place 0xFFFD [0x8D, 0x01, 0x20] []).pc.toNat + (encode (.staAbs 0x2001)).length ≤ 65536 ∧
    Ready (place 0xFFFD [0x8D, 0x01, 0x20] []) ∧
    ∀ k b, (encode (.staAbs 0x2001))[k]? = some b → (place 0xFFFD [0x8D, 0x01, 0x20] []).mem.read (0xFFFD + k) = b := by
  refine ⟨by decide, by decide, by decide, by decide, fun k b h => ?_⟩
  match k with
  | 0 => cases h; decide
  | 1 => cases h; decide
  | 2 => cases h; decide
  | _ + 3 => cases h

theorem witness_OperandFetch :
    Ready (place 0xFFFD [0x8D, 0x01, 0x20] []) ∧ opcodeTable 0x8D = some ⟨.sta, 3, .absolute⟩ ∧ inExecSet 0x8D = true ∧
    (place 0xFFFD [0x8D, 0x01, 0x20] []).mem.read 0xFFFD = 0x8D ∧ 0xFFFD + 3 ≤ 65536 ∧
    Ready (place 0xFFFF [0x8D] []) ∧ (place 0xFFFF [0x8D] []).mem.read 0xFFFF = 0x8D ∧ 65535 < 0xFFFF + 1 ∧
    Ready (place 0xFFFE [0x8D, 0x01] []) ∧ (place 0xFFFE [0x8D, 0x01] []).mem.read 0xFFFE = 0x8D ∧ 0xFFFE + 1 ≤ 65535 ∧
    65535 < 0xFFFE + 2 := by decide

theorem witness_BudgetCheck :
    ({ w with steps := 100 }.outcome = .running ∧ { w with steps := 100 }.stepBudget ≤ { w with steps := 100 }.steps) ∧
    next? { w with steps := 100 } = some { w with steps := 100, outcome := .budgetExceeded } ∧
    launch baseline = some State.reset ∧
    ({ place 0x8000 [0x60] [] with steps := 99 }.outcome = .running ∧ 99 + 1 = { place 0x8000 [0x60] [] with steps := 99 }.stepBudget ∧
      (place 0x8000 [0x60] []).mem.read 0x8000 = 0x60 ∧ (place 0x8000 [0x60] []).depth = 0) ∧
    launch { baseline with stepBudget := 0 } = some { State.reset with stepBudget := 0 } := by decide

theorem witness_UnsupportedByte :
    Ready (place 0xFFFF [0x24] []) ∧ (place 0xFFFF [0x24] []).mem.read 0xFFFF ∈ Claims.tierD ++ Claims.undefinedBytes ∧
    Ready (place 0x8000 [0xFF] []) ∧ (place 0x8000 [0xFF] []).mem.read 0x8000 ∈ Claims.tierD ++ Claims.undefinedBytes ∧
    next? (place 0xFFFF [0x24] []) = some { place 0xFFFF [0x24] [] with outcome := .unsupportedOpcode 0x24 0xFFFF } := by
  decide

theorem witness_EndedRunIsStuck : { w with outcome := .budgetExceeded }.outcome ≠ .running ∧ w.outcome = .running := by decide

/-- One state for each row of the table. -/
theorem witness_OutcomeTable :
    ((next? (place 0x8000 [0x60] [])).map (·.outcome) = some .returned) ∧
    ((next? (place 0x8000 [0x00] [])).map (·.outcome) = some (.unsupportedOpcode 0x00 0x8000)) ∧
    ((next? { place 0x8000 [] [] with stepBudget := 0 }).map (·.outcome) = some .budgetExceeded) ∧
    ((next? (place 0x0000 [0xD0, 0x80] [])).map (·.outcome) = some (.addressSpaceViolation (-126) 0x0000)) ∧
    ((next? { place 0x8000 [0xBD, 0xFF, 0xFF] [] with x := 0xFF }).map (·.outcome) =
      some (.addressSpaceViolation 0x100FE 0x8000)) := by decide

theorem witness_RaiseIsPrecise :
    (next? (place 0x8000 [0xEA] [])).map (fun t => (t.outcome, t.steps)) = some (.running, 1) ∧
    (next? (place 0x8000 [0x60] [])).map (fun t => (t.outcome, t.steps)) = some (.returned, 1) ∧
    (next? (place 0xFFFF [0xEA] [])).map (fun t => (t.outcome, t.steps)) =
      some (.addressSpaceViolation 0x10000 0xFFFF, 0) := by decide

theorem witness_ReturnedIsTerminalRts : Ready (place 0xFFFF [0x60] []) ∧ (place 0xFFFF [0x60] []).mem.read 0xFFFF = 0x60 ∧
    (place 0xFFFF [0x60] []).depth = 0 ∧ (next? (place 0xFFFF [0x60] [])).map (·.outcome) = some .returned := by decide

/-- The causes (a) to (f) of spec/60_exceptions.md R207, in order. -/
theorem witness_ViolationCauses :
    ((next? (place 0xFFFF [0x8D] [])).map (·.outcome) = some (.addressSpaceViolation 0x10000 0xFFFF)) ∧
    ((next? (place 0xFFFE [0x8D, 0x00] [])).map (·.outcome) = some (.addressSpaceViolation 0x10000 0xFFFE)) ∧
    ((next? { place 0x8000 [0xBD, 0xFF, 0xFF] [] with x := 0x01 }).map (·.outcome) =
      some (.addressSpaceViolation 0x10000 0x8000)) ∧
    ((next? { place 0x8000 [0x99, 0x01, 0xFF] [] with y := 0xFF }).map (·.outcome) =
      some (.addressSpaceViolation 0x10000 0x8000)) ∧
    ((next? { place 0x8000 [0xB1, 0x10] [(0x0010, 0xFF), (0x0011, 0xFF)] with y := 0x01 }).map (·.outcome) =
      some (.addressSpaceViolation 0x10000 0x8000)) ∧
    ((next? { place 0xFFF0 [0xF0, 0x7F] [] with z := true }).map (·.outcome) = some (.addressSpaceViolation 0x10071 0xFFF0)) ∧
    ((next? { place 0x8010 [0x60] [(0x01FE, 0xFF), (0x01FF, 0xFF)] with sp := 0xFD, depth := 1 }).map (·.outcome) =
      some (.addressSpaceViolation 0x10000 0x8010)) ∧
    ((next? (place 0xFFFF [0xEA] [])).map (·.outcome) = some (.addressSpaceViolation 0x10000 0xFFFF)) := by decide

/-- Two causes at once in each: the statement's order decides. -/
theorem witness_OutcomePriority :
    ({ place 0xFFFF [0x02] [] with steps := 100 }.stepBudget ≤ 100) ∧
    (inExecSet ((place 0xFFFE [0x6C] []).mem.read 0xFFFE) = false) ∧
    (inExecSet ((place 0xFFFF [0xBD] []).mem.read 0xFFFF) = true ∧ opcodeTable 0xBD = some ⟨.lda, 3, .absoluteX⟩) ∧
    ((place 0xFFFE [0xBD] []).pc = 0xFFFE ∧ (place 0xFFFE [0xBD] []).mem.read 0xFFFE = 0xBD) ∧
    (decode { place 0xFFFD [0xBD, 0xFF, 0xFF] [] with x := 0x01 }.fetchWindow = .instr (.ldaAbsX 0xFFFF) [] ∧
      65535 < effectiveAddress (.absX 0xFFFF) { place 0xFFFD [0xBD, 0xFF, 0xFF] [] with x := 0x01 }) ∧
    (decode (place 0x0000 [0xD0, 0x80] []).fetchWindow = .instr (.bne 0x80) [0x00] ∧
      Claims.branchTaken (.bne 0x80) (place 0x0000 [0xD0, 0x80] []) = true ∧
      Claims.target (place 0x0000 [0xD0, 0x80] []) 0x80 < 0) ∧
    (decode (place 0xFFFF [0x60] []).fetchWindow = .instr .rts [] ∧ (place 0xFFFF [0x60] []).depth = 0) ∧
    (0 < { place 0x8010 [0x60] [(0x01FE, 0xFF), (0x01FF, 0xFF)] with sp := 0xFD, depth := 1 }.depth ∧
      Claims.returnTarget { place 0x8010 [0x60] [(0x01FE, 0xFF), (0x01FF, 0xFF)] with sp := 0xFD, depth := 1 } = 0x10000) ∧
    (decode (place 0xFFFD [0x8D, 0x00, 0x03] []).fetchWindow = .instr (.staAbs 0x0300) [] ∧
      Claims.redirects (.staAbs 0x0300) (place 0xFFFD [0x8D, 0x00, 0x03] []) = false ∧
      65535 < (place 0xFFFD [0x8D, 0x00, 0x03] []).pc.toNat + (Instr.staAbs 0x0300).size) := by decide

theorem witness_ZeroPageAddresses : { w with x := 0x20 }.x = 0x20 ∧ effectiveAddress (.zpX 0xFF) { w with x := 0xFF } = 0xFE := by
  decide

theorem witness_AbsoluteAddresses : (Instr.ldaAbsX 0xFF01).form = .mem (.absX 0xFF01) ∧
    { w with pc := 0xFFFD }.pc.toNat + (Instr.ldaAbsX 0xFF01).size ≤ 65536 ∧
    effectiveAddress (.absX 0xFF01) { w with pc := 0xFFFD } = 65536 ∧
    (Instr.staAbsY 0xFFFF).form = .mem (.absY 0xFFFF) ∧ effectiveAddress (.absY 0xFFFF) w = 65536 := by decide

theorem witness_IndirectAddresses : (0x0F : Byte).toNat = ((0x10 : Byte).toNat + w.x.toNat) % 256 ∧
    (Instr.staIndY 0x10).form = .mem (.indY 0x10) ∧ w.pc.toNat + (Instr.staIndY 0x10).size ≤ 65536 ∧
    effectiveAddress (.indY 0x10) w = 65536 := by decide

theorem witness_RelativeTarget :
    (branchTarget 0x007C 0x82 = 0 ∧ branchTarget 0xFFF1 0x0C = 65535) ∧ (branchTarget 0x0000 0x80 = -126 ∧
      branchTarget 0xFFF2 0x0C = 65536) ∧ (place 0x0000 [] []).pc = 0x0000 ∧ (0x0000 : Addr) ≠ 0xFFFF ∧
    (Instr.bne 0x80).form = .rel 0x80 ∧ Claims.branchTaken (.bne 0x80) (place 0x0000 [] []) = true := by decide

theorem witness_StackDiscipline : w.mem.wf ∧ { w with sp := 0x00 }.sp = 0x00 ∧ w.sp = 0xFF := by decide

theorem witness_FlagWriters :
    (next? { place 0x8000 [0x85, 0xF6] [] with n := true, z := true, c := true }).map (fun t => (t.n, t.z, t.c, t.outcome)) =
      some (true, true, true, .running) ∧
    (Instr.staZp 0xF6).mnemonic ∉ [Mnemonic.lda, .adc, .clc] ∧
    (next? { place 0xFFFE [0x69, 0x01] [] with c := true }).map (fun t => (t.c, t.outcome)) =
      some (true, .addressSpaceViolation 0x10000 0xFFFE) := by decide

theorem witness_RegisterWriters : (next? (place 0x8000 [0x0E, 0x00, 0x03] [])).isSome = true ∧
    (Instr.aslAbs 0x0300).mnemonic ∉ [Mnemonic.lda, .txa, .tya, .pla, .adc, .sbc, .and, .ora, .eor] ∧
    (Instr.aslAbs 0x0300).mode ≠ .accumulator ∧ (Instr.aslAbs 0x0300).mnemonic ∉ [Mnemonic.ldx, .tax, .tsx, .inx, .dex] ∧
    (Instr.aslAbs 0x0300).mnemonic ∉ [Mnemonic.ldy, .tay, .iny, .dey] ∧
    (Instr.aslAbs 0x0300).mnemonic ∉ [Mnemonic.pha, .pla, .jsr, .rts, .txs] := by decide

theorem witness_MemoryFrame :
    storedAddresses (.staAbsX 0xFF00) w = [0xFFFF] ∧ storedAddresses (.jsr 0x8000) { w with sp := 0x00 } = [0x0100, 0x01FF] ∧
    storedAddresses .pha w = [0x01FF] ∧ storedAddresses .aslAcc w = [] ∧ (Instr.aslAcc).mode = .accumulator ∧
    (next? (place 0x8000 [0x8D, 0xFF, 0xFF] [])).isSome = true ∧ 0x0000 ∉ storedAddresses (.staAbsX 0xFF00) w := by decide

theorem witness_MemoryIsPlainStorage : Memory.wf [] ∧ w.mem.wf ∧ 65535 < 65536 := by decide

theorem witness_AdvanceOrRedirect :
    w.outcome = .running ∧ Claims.redirects .nop w = false ∧ inExecSet (Instr.nop).opcode = true ∧
    ((next? (place 0xFFFE [0xEA] [])).map (fun t => (t.pc, t.outcome)) = some (0xFFFF, .running)) ∧
    ((next? (place 0x8000 [0x4C, 0xFF, 0xFF] [])).map (fun t => (t.pc, t.outcome)) = some (0xFFFF, .running)) ∧
    (Claims.branchTaken (.bcs 0x80) w = true ∧ Claims.redirects (.bcc 0x80) w = false) ∧
    ((next? { place 0x8010 [0x60] [(0x01FE, 0xFE), (0x01FF, 0xFF)] with sp := 0xFD, depth := 1 }).map
      (fun t => (t.pc, t.outcome)) = some (0xFFFF, .running)) ∧
    ({ w with pc := 0xFFFF }.pc.toNat + (Instr.nop).size = 65536) ∧
    ({ w with pc := 0xFFFD }.pc.toNat + (Instr.staAbsX 0xFF00).size = 65536 ∧
      effectiveAddress (.absX 0xFF00) { w with pc := 0xFFFD } ≤ 65535) := by decide

theorem witness_StepsCounter : launch baseline = some State.reset ∧
    ((next? (place 0x8000 [0xEA] [])).map (·.outcome) = some .running) ∧
    ({ w with steps := 100 }.outcome = .running ∧ { w with steps := 100 }.stepBudget ≤ 100) := by decide

theorem witness_DepthCounter : launch baseline = some State.reset ∧
    ((next? (place 0x8000 [0x20, 0x00, 0x90] [])).map (fun t => (t.outcome, t.depth)) = some (.running, 1)) ∧
    ((next? { place 0x8010 [0x60] [] with depth := 1 }).map (fun t => (t.outcome, t.depth)) = some (.running, 0)) ∧
    (place 0x8000 [] []).depth = 0 ∧ (Instr.pha).mnemonic ∉ [Mnemonic.jsr, .rts] := by decide

theorem witness_RunInputsAndOutputs : launch baseline = some State.reset ∧ State.reset.outcome = .running ∧
    { State.reset with outcome := .returned }.outcome ≠ .running := by decide

theorem witness_LaunchMemory :
    (launch { baseline with fill := [(0x0020, 0x77)], snapshot := [(0x0010, 0xFF), (0xFFFF, 0x01)], code := [0xEA, 0x60]
                            loadAddress := some 0xFFFD }).isSome = true ∧ [0xEA, 0x60][1]? = some 0x60 ∧
    (0x0010, 0xFF) ∈ [(0x0010, 0xFF), (0xFFFF, 0x01)] ∧ (0x0010 < 0xFFFD ∧ 0xFFFD + 2 ≤ 0xFFFF) := by decide

theorem witness_HostErrorsRefused : 65536 ≤ { baseline with start := 65536 }.start ∧ (0, 256) ∈ [(0, 256)] ∧
    65536 < { baseline with start := 0xFFFF, code := [0xEA, 0x60] }.loadAt + [0xEA, 0x60].length ∧
    65536 < 0xFFFF + [(0xEA : Byte), 0x60].length ∧
    ({ baseline with start := 0xFFFF, code := [0x60] }.start < 65536 ∧
      { baseline with start := 0xFFFF, code := [0x60] }.loadAt + [0x60].length ≤ 65536 ∧ baseline.fill.wf) := by decide

theorem witness_InvAtLaunch : launch baseline = some State.reset := by decide

theorem witness_StepKeepsInv : State.reset.Inv ∧ (next? State.reset).isSome = true ∧ (place 0x8000 [0xEA] []).Inv ∧
    (next? (place 0x8000 [0xEA] [])).map (·.outcome) = some .running := by
  refine ⟨⟨by decide, by decide, by decide, trivial⟩, by decide,
    ⟨by decide, by decide, by decide, trivial⟩, by decide⟩

theorem witness_EveryRunEnds : launch { baseline with code := [0x4C, 0x00, 0x80], stepBudget := 1 } =
    some { place 0x8000 [0x4C, 0x00, 0x80] [] with stepBudget := 1 } := by decide

theorem witness_StoreIntoCode : (place 0x8000 [0x8D, 0x03, 0x80] []).mem.wf ∧ Ready (place 0x8000 [0x8D, 0x03, 0x80] []) ∧
    decode (place 0x8000 [0x8D, 0x03, 0x80] []).fetchWindow = .instr (.staAbs 0x8003) [] ∧
    (Instr.staAbs 0x8003).form = .mem (.abs 0x8003) ∧ (Instr.staAbs 0x8003).mnemonic = .sta ∧
    (next? { place 0x8000 [0x8D, 0x03, 0x80] [] with a := 0xEA }).map (fun t => (t.outcome, t.pc.toNat, t.fetchWindow[0]?)) =
      some (.running, 0x8003, some 0xEA) := by decide

theorem witness_CallThenReturn : w.mem.wf ∧ { w with pc := 0xFFFC }.pc.toNat + 3 = 65535 ∧
    { w with pc := 0xFFFD }.pc.toNat + 2 = 65535 ∧ { w with pc := 0xFFFD }.pc.toNat + 3 = 65536 := by decide

/-- The hypotheses of the statements of a result from an operand: loads, arithmetic, comparisons, logic. -/
theorem witness_operand_results :
    ((Instr.ldaImm 0x00).form.source? = some (.imm 0x00) ∧ operandValue (.imm 0x00) w = some 0x00) ∧
    ((Instr.ldaAbsX 0xFF00).form.source? = some (.mem (.absX 0xFF00)) ∧ operandValue (.mem (.absX 0xFF00)) w = some 0x00) ∧
    CanAdvance 2 { w with pc := 0xFFFD } ∧ CanAdvance 3 { w with pc := 0xFFFC } := by decide

theorem witness_Loads : (Instr.ldaImm 0x00).mnemonic = .lda ∧ (Instr.ldxZpY 0x10).form.source? = some (.mem (.zpY 0x10)) ∧
    operandValue (.mem (.zpY 0x10)) w = some 0xFF ∧ (Instr.ldxZpY 0x10).mnemonic = .ldx ∧
    (Instr.ldyZp 0xFF).form.source? = some (.mem (.zp 0xFF)) ∧ operandValue (.mem (.zp 0xFF)) w = some 0x00 ∧
    (Instr.ldyZp 0xFF).mnemonic = .ldy ∧ CanAdvance 2 w := by decide

theorem witness_Stores : (Instr.staAbsX 0xFF00).form = .mem (.absX 0xFF00) ∧ effectiveAddress (.absX 0xFF00) w = 65535 ∧
    CanAdvance (Instr.staAbsX 0xFF00).size w ∧ (Instr.staAbsX 0xFF00).mnemonic = .sta ∧
    (Instr.stxZpY 0xFF).form = .mem (.zpY 0xFF) ∧ effectiveAddress (.zpY 0xFF) w = 0 ∧ (Instr.stxZpY 0xFF).mnemonic = .stx ∧
    (Instr.styZp 0xFF).form = .mem (.zp 0xFF) ∧ effectiveAddress (.zp 0xFF) w = 0xFF ∧ (Instr.styZp 0xFF).mnemonic = .sty := by
  decide

theorem witness_one_byte_instructions : { w with pc := 0xFFFE }.pc ≠ 0xFFFF ∧ { w with pc := 0xFFFF }.pc = 0xFFFF ∧
    w.mem.read (0x0100 + (w.sp + 1).toNat) = 0x00 := by decide

theorem witness_AddWithCarry : (Instr.adcIndX 0x11).mnemonic = .adc ∧
    (Instr.adcIndX 0x11).form.source? = some (.mem (.indX 0x11)) ∧ operandValue (.mem (.indX 0x11)) w = some 0x00 ∧
    CanAdvance (Instr.adcIndX 0x11).size w ∧ (Instr.adcImm 0xFF).form.source? = some (.imm 0xFF) ∧
    511 = { w with a := 0xFF }.a.toNat + (0xFF : Byte).toNat + w.c.toNat := by decide

theorem witness_SubtractWithBorrow : (Instr.sbcImm 0xFF).mnemonic = .sbc ∧ (Instr.sbcImm 0xFF).form.source? = some (.imm 0xFF) ∧
    operandValue (.imm 0xFF) w = some 0xFF ∧ CanAdvance (Instr.sbcImm 0xFF).size w ∧
    (-256 : Int) = ({ w with a := 0x00, c := false }.a.toNat : Int) - (0xFF : Byte).toNat - (1 - (false.toNat : Int)) ∧
    0 = { w with a := 0x00, c := false }.a.toNat + (255 - (0xFF : Byte).toNat) + false.toNat := by decide

theorem witness_Compares : (Instr.cmpIndX 0x11).mnemonic = .cmp ∧ (Instr.cpxImm 0xFF).mnemonic = .cpx ∧
    (Instr.cpyAbs 0xFFFF).mnemonic = .cpy ∧ (Instr.cpyAbs 0xFFFF).form.source? = some (.mem (.abs 0xFFFF)) ∧
    operandValue (.mem (.abs 0xFFFF)) w = some 0x00 ∧ CanAdvance (Instr.cpyAbs 0xFFFF).size w ∧
    operandValue (.imm 0xFF) w = some 0xFF ∧ operandValue (.mem (.indX 0x11)) w = some 0x00 := by decide

theorem witness_MemoryIncrementDecrement : (Instr.incAbsX 0xFF00).form = .mem (.absX 0xFF00) ∧
    effectiveAddress (.absX 0xFF00) w = 65535 ∧ CanAdvance (Instr.incAbsX 0xFF00).size w ∧
    (Instr.incAbsX 0xFF00).mnemonic = .inc ∧ (0x01 : Byte) = w.mem.read 65535 + 1 ∧
    (Instr.decZp 0xFF).mnemonic = .dec ∧ (0xFF : Byte) = w.mem.read (effectiveAddress (.zp 0xFF) w) - 1 := by decide

theorem witness_LogicOperations : (Instr.andImm 0xFF).mnemonic = .and ∧ (Instr.oraAbsY 0x000F).mnemonic = .ora ∧
    (Instr.eorIndX 0x11).mnemonic = .eor ∧ operandValue (.mem (.absY 0x000F)) w = some 0xFF ∧
    (0xFF : Byte) = w.a ||| 0xFF ∧ (0x80 : Byte) = w.a &&& 0xFF ∧ (0x80 : Byte) = w.a ^^^ 0x00 ∧
    operandValue (.mem (.indX 0x11)) w = some 0x00 ∧ CanAdvance (Instr.oraAbsY 0x000F).size w := by decide

theorem witness_Shifts : w.pc ≠ 0xFFFF ∧ (0x00 : Byte) = w.a <<< 1 ∧ true = w.a.getLsbD 7 ∧ (0x40 : Byte) = w.a >>> 1 ∧
    Claims.memByte (.aslZp 0x10) w = some (0x10, 0xFF) ∧ Claims.memByte (.lsrAbsX 0xFF00) w = some (0xFFFF, 0x00) ∧
    (Instr.aslZp 0x10).mnemonic = .asl ∧ (Instr.lsrAbsX 0xFF00).mnemonic = .lsr ∧ CanAdvance (Instr.lsrAbsX 0xFF00).size w := by
  decide

theorem witness_Rotates : w.pc ≠ 0xFFFF ∧ Claims.rolPair (w.a, w.c) = (0x01, true) ∧ Claims.rorPair (w.a, w.c) = (0xC0, false) ∧
    Claims.memByte (.rolZp 0x10) w = some (0x10, 0xFF) ∧ Claims.memByte (.rorAbsX 0xFF00) w = some (0xFFFF, 0x00) ∧
    (Instr.rolZp 0x10).mnemonic = .rol ∧ (Instr.rorAbsX 0xFF00).mnemonic = .ror ∧ CanAdvance (Instr.rorAbsX 0xFF00).size w := by
  decide

/-- Each clause of `Claims.Branches` at its edge. -/
theorem witness_ConditionalBranches : { w with pc := 0xFFFF }.pc = 0xFFFF ∧
    ({ w with pc := 0x007C }.pc ≠ 0xFFFF ∧ Claims.target { w with pc := 0x007C } 0x82 = 0) ∧
    Claims.target { w with pc := 0xFFF1 } 0x0C = 65535 ∧ Claims.target { w with pc := 0x0000 } 0x80 = -126 ∧
    Claims.target { w with pc := 0xFFF2 } 0x0C = 65536 ∧ { w with pc := 0xFFFD }.pc ≠ 0xFFFE ∧ { w with pc := 0xFFFE }.pc = 0xFFFE ∧
    ([(w.c == true), (w.z == false), (w.n == false)] : List Bool) = [true, true, true] ∧
    ([(w.c == false), (w.z == true), (w.n == true)] : List Bool) = [false, false, false] := by decide

theorem witness_JumpAndCall : { w with pc := 0xFFFD }.pc.toNat + 2 = 65535 ∧
    (0xFF : Byte).toNat = ({ w with pc := 0xFFFD }.pc.toNat + 2) / 256 ∧
    (0xFF : Byte).toNat = ({ w with pc := 0xFFFD }.pc.toNat + 2) % 256 ∧ 65535 < { w with pc := 0xFFFE }.pc.toNat + 2 := by
  decide

theorem witness_SubroutineReturn : { w with depth := 0 }.depth = 0 ∧ 0 < w.depth ∧ Claims.returnTarget w = 1 ∧
    (0 < { place 0x8010 [] [(0x01FE, 0xFF), (0x01FF, 0xFF)] with sp := 0xFD, depth := 1 }.depth ∧
      Claims.returnTarget { place 0x8010 [] [(0x01FE, 0xFF), (0x01FF, 0xFF)] with sp := 0xFD, depth := 1 } = 65536) ∧
    Claims.returnTarget { place 0x8010 [] [(0x01FE, 0xFE), (0x01FF, 0xFF)] with sp := 0xFD, depth := 1 } = 65535 := by
  decide

/-- Each clause of `Claims.CommonOutcomes` at its edge: a missing operand byte, an address past the top, no next address. -/
theorem witness_CommonOutcomes : 65536 < { w with pc := 0xFFFE }.pc.toNat + (Instr.ldaAbsX 0xFF01).size ∧
    ((Instr.ldaAbsX 0xFF01).form = .mem (.absX 0xFF01) ∧ { w with pc := 0xFFFD }.pc.toNat + (Instr.ldaAbsX 0xFF01).size ≤ 65536 ∧
      effectiveAddress (.absX 0xFF01) { w with pc := 0xFFFD } = 65536) ∧
    (effectiveAddress (.absX 0xFF00) { w with pc := 0xFFFD } = 65535 ∧
      { w with pc := 0xFFFD }.pc.toNat + (Instr.ldaAbsX 0xFF00).size = 65536) := by decide

theorem witness_DecodedOnlyOperands : 0xFFFD + 3 ≤ 65536 ∧ (0x03FF : Addr).toNat = (0x03 : Byte).toNat * 256 + (0xFF : Byte).toNat ∧
    (Instr.bitZp 0x10).mnemonic = .bit ∧ (Instr.jmpInd 0x0300).mode = .indirect ∧ Ready (place 0xFFFF [0x6C] []) ∧
    (place 0xFFFF [0x6C] []).byteAt (place 0xFFFF [0x6C] []).pc ∈ [0x24, 0x2C, 0x6C] := by decide

theorem witness_DecodedNotExecuted : (Instr.sei).opcode = 0x78 ∧ (Instr.bvc 0xFE).opcode = 0x50 ∧
    0xFFFF + (Descriptor.mk .sei 1 .implied).size ≤ 65536 ∧ Ready (place 0xFFFF [0x78] []) ∧
    (place 0xFFFF [0x78] []).byteAt (place 0xFFFF [0x78] []).pc = 0x78 := by decide

end Sys2Proof.Tests
end

section
/-! PROOFS. What an instruction's meaning determines: that the shape it has in one state is its meaning there (the converse of
`exec_does`), and that no instruction reads `steps` or the budget and only JSR and RTS read `depth`. -/

namespace Sys2Proof.Machine

/-! ### The shape of an instruction determines it -/

/-- No byte of tier D is executed (spec/30_encoding.md R88). -/
theorem inExecSet_tierD : ∀ op ∈ Claims.tierD, inExecSet op = false := by decide

/-- The instructions that are decoded and not executed (spec/45_decoded_not_executed.md R180). -/
abbrev DecodedOnlyInstr (i : Instr) : Prop :=
  i.mnemonic ∈ [.bit, .brk, .rti, .php, .plp, .bvc, .bvs, .clv, .cld, .sed, .cli, .sei] ∨ i.mode = .indirect

theorem DecodedOnlyInstr.opcode_tierD {i : Instr} (h : DecodedOnlyInstr i) : i.opcode ∈ Claims.tierD := by
  cases i <;>
    simp [DecodedOnlyInstr, Instr.mnemonic, Instr.mode, Instr.form, OperandForm.mode, MemRef.mode] at h <;>
    simp [Instr.opcode, Claims.tierD]

theorem DecodedOnlyInstr.exec_eq {i : Instr} (h : DecodedOnlyInstr i) : exec i = unsupported i.opcode := by
  cases i <;>
    simp [DecodedOnlyInstr, Instr.mnemonic, Instr.mode, Instr.form, OperandForm.mode, MemRef.mode] at h <;> rfl

/-- The operand that the form gives is the one the mnemonic's shape takes. -/
theorem exec_of_operand {α : Type} {i : Instr} {o : Option α} {src : α} {f : α → State → Result}
    (he : ∃ src', o = some src' ∧ exec i = f src') (hf : o = some src) (s : State) : exec i s = f src s := by
  obtain ⟨src', hf', he⟩ := he
  cases hf.symm.trans hf'
  rw [he]

/-- The same where the shape takes the operand as a place. -/
theorem exec_of_memOperand {i : Instr} {p : Place} {f : Place → State → Result}
    (he : ∃ r, i.form = .mem r ∧ exec i = f (.mem r)) (hf : i.form.place? = some p) (s : State) : exec i s = f p s := by
  obtain ⟨r, hr, he⟩ := he
  exact exec_of_operand ⟨.mem r, form_of_place_mem.2 hr, he⟩ hf s

/-- The same where the shape takes the operand as an address form. -/
theorem exec_of_memRef {i : Instr} {ref : MemRef} {s : State} {f : MemRef → State → Result}
    (he : ∃ r, i.form = .mem r ∧ ∀ s, exec i s = f r s) (hf : i.form = .mem ref) : exec i s = f ref s := by
  obtain ⟨r, hr, he⟩ := he
  cases hf.symm.trans hr
  exact he s

/-- A shape that an instruction has in a state is its meaning there: the converse of `exec_does`. -/
theorem Does.exec_eq {i : Instr} {s : State} {r : Result} (h : Does i s r) : exec i s = r := by
  cases h with
  | load r src hm hf =>
    rcases hm with ⟨h, rfl⟩ | ⟨h, rfl⟩ | ⟨h, rfl⟩
    · exact exec_of_operand (exec_lda h) hf s
    · exact exec_of_operand (exec_ldx h) hf s
    · exact exec_of_operand (exec_ldy h) hf s
  | store v ref hm hf =>
    rcases hm with ⟨h, rfl⟩ | ⟨h, rfl⟩ | ⟨h, rfl⟩
    · exact exec_of_memRef (f := fun r s => storeByte s.a r s) (exec_sta h) hf
    · exact exec_of_memRef (f := fun r s => storeByte s.x r s) (exec_stx h) hf
    · exact exec_of_memRef (f := fun r s => storeByte s.y r s) (exec_sty h) hf
  | move r v hm hf =>
    rcases hm with ⟨h, rfl, rfl⟩ | ⟨h, rfl, rfl⟩ | ⟨h, rfl, rfl⟩ | ⟨h, rfl, rfl⟩ | ⟨h, rfl, rfl⟩ | ⟨h, rfl, rfl⟩ |
      ⟨h, rfl, rfl⟩ | ⟨h, rfl, rfl⟩ | ⟨h, rfl, rfl⟩ <;> cases i <;> cases h <;> rfl
  | accumulate op src hm hf =>
    rcases hm with ⟨h, rfl⟩ | ⟨h, rfl⟩ | ⟨h, rfl⟩ | ⟨h, rfl⟩ | ⟨h, rfl⟩
    · exact exec_of_operand (exec_adc h) hf s
    · exact exec_of_operand (exec_sbc h) hf s
    · exact exec_of_operand (exec_and h) hf s
    · exact exec_of_operand (exec_ora h) hf s
    · exact exec_of_operand (exec_eor h) hf s
  | compare r src hm hf =>
    rcases hm with ⟨h, rfl⟩ | ⟨h, rfl⟩ | ⟨h, rfl⟩
    · exact exec_of_operand (exec_cmp h) hf s
    · exact exec_of_operand (exec_cpx h) hf s
    · exact exec_of_operand (exec_cpy h) hf s
  | modify op p hm hf =>
    rcases hm with ⟨h, rfl⟩ | ⟨h, rfl⟩ | ⟨h, rfl⟩ | ⟨h, rfl⟩ | ⟨h, rfl⟩ | ⟨h, rfl⟩
    · exact exec_of_operand (exec_asl h) hf s
    · exact exec_of_operand (exec_lsr h) hf s
    · exact exec_of_operand (exec_rol h) hf s
    · exact exec_of_operand (exec_ror h) hf s
    · exact exec_of_memOperand (exec_inc h) hf s
    · exact exec_of_memOperand (exec_dec h) hf s
  | branch taken b hm hf =>
    rcases hm with ⟨h, rfl⟩ | ⟨h, rfl⟩ | ⟨h, rfl⟩ | ⟨h, rfl⟩ | ⟨h, rfl⟩ | ⟨h, rfl⟩ <;>
      cases i <;> cases h <;> cases hf <;> rfl
  | txs hi => subst hi; rfl
  | jmp w hi => subst hi; rfl
  | jsr w hi => subst hi; rfl
  | rts hi => subst hi; rfl
  | pha hi => subst hi; rfl
  | pla hi => subst hi; rfl
  | clc hi => subst hi; rfl
  | sec hi => subst hi; rfl
  | nop hi => subst hi; rfl
  | unsupported hm => rw [DecodedOnlyInstr.exec_eq hm]

/-! ### What no instruction reads -/

/-- A change of the three counters of a state. -/
structure Recount where
  steps : Nat → Nat
  depth : Nat → Nat
  budget : Nat → Nat

namespace Recount

/-- A state with its counters changed and nothing else. -/
def apply (g : Recount) (s : State) : State :=
  { s with steps := g.steps s.steps, depth := g.depth s.depth, stepBudget := g.budget s.stepBudget }

/-- A result with the counters of its next state changed. -/
def onNext (g : Recount) : Result → Result
  | .next t => .next (g.apply t)
  | .fault r => .fault r
  | .refused r => .refused r

/-- The change keeps the increment of `steps` at its value in `s`. -/
def KeepsCount (g : Recount) (s : State) : Prop := g.steps (s.steps + 1) = g.steps s.steps + 1

@[simp] theorem depth_apply (g : Recount) (s : State) : (g.apply s).depth = g.depth s.depth := rfl

theorem setReg_apply (g : Recount) (s : State) (r : Reg) (v : Byte) : (g.apply s).setReg r v = g.apply (s.setReg r v) := by
  cases r <;> rfl

theorem getReg_apply (g : Recount) (s : State) (r : Reg) : (g.apply s).getReg r = s.getReg r := by cases r <;> rfl

section
variable {g : Recount} {s : State} (hs : g.KeepsCount s)
include hs

/-! #### The shared operations -/

theorem raise_apply (o : RunOutcome) : raise o (g.apply s) = g.onNext (raise o s) := by
  by_cases ho : o = .returned
  · subst ho
    simp only [raise, raised_returned, onNext, apply, hs.symm]
  · simp only [raise, raised_other ho]
    rfl

theorem commit_apply {s' : State} (hn : s'.steps = s.steps) : commit (g.apply s') = g.onNext (commit s') := by
  simp only [commit, onNext, apply, hn, hs.symm]

theorem withAddress_apply (addr : Int) {k k' : Addr → Result} (hk : ∀ a, k' a = g.onNext (k a)) :
    withAddress addr (g.apply s) k' = g.onNext (withAddress addr s k) := by
  unfold withAddress
  split
  · exact hk _
  · exact raise_apply hs _

theorem withOperandBytes_apply (size : Nat) {k k' : Result} (hk : k' = g.onNext k) :
    withOperandBytes size (g.apply s) k' = g.onNext (withOperandBytes size s k) := by
  have hm : missingOperand size (g.apply s) = missingOperand size s := rfl
  rw [withOperandBytes, withOperandBytes, hm]
  cases missingOperand size s with
  | none => exact hk
  | some addr => exact raise_apply hs _

theorem finish_apply (size : Nat) {s' : State} (hn : s'.steps = s.steps) :
    finish size (g.apply s) (g.apply s') = g.onNext (finish size s s') :=
  withAddress_apply hs _ fun pc => commit_apply (s' := { s' with pc := pc }) hs hn

theorem withEffectiveAddress_apply (r : MemRef) {k k' : Addr → Result} (hk : ∀ a, k' a = g.onNext (k a)) :
    withEffectiveAddress r (g.apply s) k' = g.onNext (withEffectiveAddress r s k) := by
  have he : effectiveAddress r (g.apply s) = effectiveAddress r s := by cases r <;> rfl
  rw [withEffectiveAddress, he]
  exact withAddress_apply hs _ hk

theorem withOperand_apply (src : Source) {k k' : Byte → Result} (hk : ∀ m, k' m = g.onNext (k m)) :
    withOperand src (g.apply s) k' = g.onNext (withOperand src s k) := by
  cases src with
  | imm b => exact hk b
  | mem r => exact withEffectiveAddress_apply hs r fun a => hk (s.byteAt a)

/-! #### The shapes -/

theorem loadReg_apply (r : Reg) (src : Source) : loadReg r src (g.apply s) = g.onNext (loadReg r src s) :=
  withOperandBytes_apply hs _ <| withOperand_apply hs src fun m => by
    rw [setReg_apply]
    exact finish_apply (s' := (s.setReg r m).setNZ m) hs _ (by simp)

theorem storeByte_apply (v : Byte) (ref : MemRef) : storeByte v ref (g.apply s) = g.onNext (storeByte v ref s) :=
  withOperandBytes_apply hs _ <| withEffectiveAddress_apply hs ref fun ea => finish_apply (s' := s.store ea v) hs _ rfl

theorem moveTo_apply (r : Reg) (v : Byte) : moveTo r v (g.apply s) = g.onNext (moveTo r v s) := by
  rw [moveTo, setReg_apply]
  exact finish_apply (s' := (s.setReg r v).setNZ v) hs _ (by simp)

theorem accumulate_apply (op : Byte → Byte → Bool → Byte × Bool) (src : Source) :
    accumulate op src (g.apply s) = g.onNext (accumulate op src s) :=
  withOperandBytes_apply hs _ <| withOperand_apply hs src fun m =>
    finish_apply (s' := ((s.setReg .a (op s.a m s.c).1).setNZ (op s.a m s.c).1).setC (op s.a m s.c).2) hs _ rfl

theorem compareReg_apply (r : Reg) (src : Source) : compareReg r src (g.apply s) = g.onNext (compareReg r src s) :=
  withOperandBytes_apply hs _ <| withOperand_apply hs src fun m => by
    rw [getReg_apply]
    exact finish_apply (s' := (s.setNZ (difference (s.getReg r) m).1).setC (difference (s.getReg r) m).2) hs _ rfl

theorem modifyPlace_apply (op : Byte → Bool → Byte × Bool) (p : Place) :
    modifyPlace op p (g.apply s) = g.onNext (modifyPlace op p s) := by
  cases p with
  | acc => exact withOperandBytes_apply hs _ (finish_apply (s' := modifiedAcc op s) hs _ rfl)
  | mem ref =>
    exact withOperandBytes_apply hs _ <| withEffectiveAddress_apply hs ref fun ea =>
      finish_apply (s' := ((s.store ea (op (s.byteAt ea) s.c).1).setNZ (op (s.byteAt ea) s.c).1).setC
        (op (s.byteAt ea) s.c).2) hs _ rfl

theorem branch_apply (taken : Bool) (b : Byte) : branch taken b (g.apply s) = g.onNext (branch taken b s) := by
  cases taken with
  | true =>
    simp only [branch, if_true]
    exact withOperandBytes_apply hs 2 <| withAddress_apply hs _ fun t => commit_apply (s' := { s with pc := t }) hs rfl
  | false =>
    simp only [branch, Bool.false_eq_true, if_false]
    exact withOperandBytes_apply hs 2 <| finish_apply hs 2 rfl

theorem execJsr_apply (hd : g.depth = id) (w : Addr) : execJsr w (g.apply s) = g.onNext (execJsr w s) := by
  refine withOperandBytes_apply hs _ ?_
  rw [← commit_apply
    (s' := { (s.push (hiByte (s.pc + 2))).push (loByte (s.pc + 2)) with pc := w, depth := s.depth + 1 }) hs rfl]
  simp only [apply, hd, id, State.push, State.store]

theorem execRts_apply (hd : g.depth = id) : execRts (g.apply s) = g.onNext (execRts s) := by
  simp only [execRts, depth_apply, hd, id]
  split
  · exact raise_apply hs _
  · refine withAddress_apply hs _ fun t => ?_
    rw [← commit_apply (s' := { s.pull.pull with pc := t, depth := s.depth - 1 }) hs rfl]
    simp only [apply, hd, id, State.pull]

/-- No instruction reads `steps` or the budget, and only JSR and RTS read `depth`: over changed counters an instruction does the
same, with the same change in its next state (spec/10_state.md R37, R38). -/
theorem exec_apply {i : Instr} (hd : i.mnemonic ∉ [.jsr, .rts] ∨ g.depth = id) :
    exec i (g.apply s) = g.onNext (exec i s) := by
  have h := exec_does i s
  generalize exec i s = r at h
  cases h with
  | load r src hm hf => exact (Does.load (s := g.apply s) r src hm hf).exec_eq.trans (loadReg_apply hs r src)
  | store v ref hm hf => exact (Does.store (s := g.apply s) v ref hm hf).exec_eq.trans (storeByte_apply hs v ref)
  | move r v hm hf => exact (Does.move (s := g.apply s) r v hm hf).exec_eq.trans (moveTo_apply hs r v)
  | accumulate op src hm hf => exact (Does.accumulate (s := g.apply s) op src hm hf).exec_eq.trans (accumulate_apply hs op src)
  | compare r src hm hf => exact (Does.compare (s := g.apply s) r src hm hf).exec_eq.trans (compareReg_apply hs r src)
  | modify op p hm hf => exact (Does.modify (s := g.apply s) op p hm hf).exec_eq.trans (modifyPlace_apply hs op p)
  | branch taken b hm hf => exact (Does.branch (s := g.apply s) taken b hm hf).exec_eq.trans (branch_apply hs taken b)
  | txs hi => subst hi; exact finish_apply (s' := { s with sp := s.x }) hs 1 rfl
  | jmp w hi => subst hi; exact withOperandBytes_apply hs 3 (commit_apply (s' := { s with pc := w }) hs rfl)
  | jsr w hi => subst hi; exact execJsr_apply hs (hd.resolve_left (by simp [Instr.mnemonic])) w
  | rts hi => subst hi; exact execRts_apply hs (hd.resolve_left (by simp [Instr.mnemonic]))
  | pha hi => subst hi; exact finish_apply (s' := s.push s.a) hs 1 rfl
  | pla hi => subst hi; exact finish_apply (s' := (s.pull.setReg .a s.pulled).setNZ s.pulled) hs 1 rfl
  | clc hi => subst hi; exact finish_apply (s' := s.setC false) hs 1 rfl
  | sec hi => subst hi; exact finish_apply (s' := s.setC true) hs 1 rfl
  | nop hi => subst hi; exact finish_apply (s' := s) hs 1 rfl
  | unsupported hm => rw [DecodedOnlyInstr.exec_eq hm]; exact raise_apply hs _

end
end Recount

/-- `steps` and the budget set, `steps` counting on from `n` where it counted from `k`. -/
def Recount.ofSteps (k n b : Nat) : Recount := { steps := fun m => n + (m - k), depth := id, budget := fun _ => b }

/-- `depth` set. -/
def Recount.ofDepth (d : Nat) : Recount := { steps := id, depth := fun _ => d, budget := id }

theorem exec_withSteps {i : Instr} {s t : State} (n b : Nat) (h : exec i s = .next t) :
    exec i { s with steps := n, stepBudget := b } = .next { t with steps := n + (t.steps - s.steps), stepBudget := b } := by
  have hs : (Recount.ofSteps s.steps n b).KeepsCount s := by simp only [Recount.KeepsCount, Recount.ofSteps]; omega
  have := Recount.exec_apply hs (i := i) (.inr rfl)
  rw [h] at this
  simpa [Recount.apply, Recount.onNext, Recount.ofSteps] using this

theorem exec_withDepth {i : Instr} {s t : State} (d : Nat) (hi : i.mnemonic ∉ [.jsr, .rts]) (h : exec i s = .next t) :
    exec i { s with depth := d } = .next { t with depth := d } := by
  have := Recount.exec_apply (g := .ofDepth d) (s := s) rfl (.inl hi)
  rwa [h] at this

/-- An instruction that does not read `depth` does not write it: at its own `depth` a state is itself. -/
theorem exec_depth {i : Instr} {s t : State} (hi : i.mnemonic ∉ [.jsr, .rts]) (h : exec i s = .next t) : t.depth = s.depth := by
  have hd : exec i s = .next { t with depth := s.depth } := exec_withDepth s.depth hi h
  have ht : t = { t with depth := s.depth } := result_next_inj.1 (h.symm.trans hd)
  rw [ht]

end Sys2Proof.Machine
end

section
/-! PROOFS. Everything an instruction can do, with its cause: `exec_answers` says that every instruction answers a next state in
every state, and which; `exec_effect` takes a given next state apart. -/

namespace Sys2Proof.Machine

/-! ### What an instruction can do -/

/-- The address, as an integer, at which an instruction that redirects goes on (spec/10_state.md R25). -/
inductive GoesTo (i : Instr) (s : State) : Int → Prop where
  | jmp (w : Addr) (hi : i = .jmpAbs w) : GoesTo i s w.toNat
  | jsr (w : Addr) (hi : i = .jsr w) : GoesTo i s w.toNat
  | branch (b : Byte) (hf : i.form = .rel b) (ht : Claims.branchTaken i s = true) : GoesTo i s (Claims.target s b)
  | rts (hi : i = .rts) (hd : 0 < s.depth) : GoesTo i s (Claims.returnTarget s)

/-- Everything the next state of an instruction can be: its commit, with an advance or a redirect, or an outcome raised with its
cause (spec/60_exceptions.md R202, R203, R207). -/
inductive Effect (i : Instr) (s : State) : State → Prop where
  | advance (s' : State) (hr : Claims.redirects i s = false) (hc : CanAdvance i.size s) (ho : s'.outcome = s.outcome)
      (hn : s'.steps = s.steps) : Effect i s (advanced i.size s s')
  | redirect (s' : State) (p : Addr) (hg : GoesTo i s p.toNat) (ho : s'.outcome = s.outcome) (hn : s'.steps = s.steps) :
      Effect i s { s' with pc := p, steps := s'.steps + 1 }
  | missing (h : 65536 < s.pc.toNat + i.size) : Effect i s (s.raised (.addressSpaceViolation 65536 s.pc))
  | outside (r : MemRef) (hf : i.form = .mem r) (h : 65535 < effectiveAddress r s) :
      Effect i s (s.raised (.addressSpaceViolation (effectiveAddress r s) s.pc))
  | noNext (h : 65535 < s.pc.toNat + i.size) : Effect i s (s.raised (.addressSpaceViolation ((s.pc.toNat : Int) + i.size) s.pc))
  | noTarget (a : Int) (hg : GoesTo i s a) (h : a < 0 ∨ 65535 < a) : Effect i s (s.raised (.addressSpaceViolation a s.pc))
  | returned (hi : i = .rts) (hd : s.depth = 0) : Effect i s (s.raised .returned)
  | unsupported (h : inExecSet i.opcode = false) : Effect i s (s.raised (.unsupportedOpcode i.opcode s.pc))

/-- The result is a next state, and one the instruction can have. -/
def Answers (i : Instr) (s : State) (r : Result) : Prop := ∃ t, r = .next t ∧ Effect i s t

/-! #### When an instruction redirects -/

theorem redirects_of_mnemonic {i : Instr} {s : State}
    (h : i.mnemonic ∉ [.bcc, .bcs, .beq, .bne, .bmi, .bpl, .jmp, .jsr, .rts]) : Claims.redirects i s = false := by
  simp only [List.mem_cons, List.not_mem_nil, or_false, not_or] at h
  simp [Claims.redirects, Claims.branchTaken, h]

theorem GoesTo.redirects {i : Instr} {s : State} {a : Int} (h : GoesTo i s a) : Claims.redirects i s = true := by
  cases h with
  | jmp w hi => subst hi; rfl
  | jsr w hi => subst hi; rfl
  | branch b hf ht => simp [Claims.redirects, ht]
  | rts hi hd => subst hi; rfl

/-! #### The shared operations -/

section
variable {i : Instr} {s : State}

theorem withOperandBytes_answers {size : Nat} {k : Result} (hz : i.size = size) (hk : BytesInSpace size s → Answers i s k) :
    Answers i s (withOperandBytes size s k) := by
  subst hz
  by_cases h : 65536 < s.pc.toNat + i.size
  · exact ⟨_, withOperandBytes_out i.size_pos i.size_le h, .missing h⟩
  · have hb : BytesInSpace i.size s := by omega
    rw [withOperandBytes_in i.size_pos i.size_le hb]
    exact hk hb

theorem withEffectiveAddress_answers {r : MemRef} {k : Addr → Result} (hf : i.form = .mem r) (hk : ∀ a, Answers i s (k a)) :
    Answers i s (withEffectiveAddress r s k) := by
  by_cases h : 65535 < effectiveAddress r s
  · exact ⟨_, withEffectiveAddress_out h, .outside r hf h⟩
  · rw [withEffectiveAddress_in (by omega)]
    exact hk _

theorem withOperand_answers {src : Source} {k : Byte → Result} (hf : i.form.source? = some src)
    (hk : ∀ m, Answers i s (k m)) : Answers i s (withOperand src s k) := by
  cases src with
  | imm b => exact hk b
  | mem r => exact withEffectiveAddress_answers (form_of_source_mem.1 hf) fun _ => hk _

theorem finish_answers {size : Nat} {s' : State} (hz : i.size = size) (hr : Claims.redirects i s = false)
    (ho : s'.outcome = s.outcome) (hn : s'.steps = s.steps) : Answers i s (finish size s s') := by
  subst hz
  by_cases h : CanAdvance i.size s
  · exact ⟨_, finish_in h, .advance s' hr h ho hn⟩
  · have h : 65535 < s.pc.toNat + i.size := by omega
    exact ⟨_, finish_out h, .noNext h⟩

theorem redirect_answers {a : Int} {f : Addr → State} (hg : GoesTo i s a) (ho : ∀ p, (f p).outcome = s.outcome)
    (hn : ∀ p, (f p).steps = s.steps) : Answers i s (withAddress a s fun p => commit { f p with pc := p }) := by
  by_cases h : a < 0 ∨ 65535 < a
  · exact ⟨_, withAddress_out h, .noTarget a hg h⟩
  · obtain ⟨n, rfl⟩ : ∃ n : Nat, a = n := ⟨a.toNat, by omega⟩
    have hp : ((BitVec.ofNat 16 n).toNat : Int) = n := by rw [BitVec.toNat_ofNat]; omega
    rw [withAddress_nat (by omega)]
    exact ⟨_, rfl, .redirect (f _) (.ofNat 16 n) (hp ▸ hg) (ho _) (hn _)⟩

theorem size_of_rel {b : Byte} (hf : i.form = .rel b) : i.size = 2 := by rw [Instr.size, Instr.mode, hf]; rfl

/-- The target of RTS is the pulled address plus one (spec/43_branch_jump_call.md R159). -/
theorem pulled_target (s : State) : ((word16 s.pull.pulled s.pulled).toNat : Int) + 1 = Claims.returnTarget s := by
  have h2 : s.sp + 1 + 1 = s.sp + 2 := by rw [BitVec.add_assoc]; rfl
  simp only [word16_toNat, State.pulled, State.byteAt, stackAddr_toNat, State.sp_pull, State.mem_pull, h2, Claims.returnTarget]
  omega

theorem branch_answers {taken : Bool} {b : Byte} (hf : i.form = .rel b) (ht : Claims.branchTaken i s = taken)
    (hr : taken = false → Claims.redirects i s = false) : Answers i s (branch taken b s) := by
  cases taken with
  | true =>
    have hg : GoesTo i s (branchTarget s.pc b) := by
      rw [branchTarget, sext8_eq]
      exact .branch b hf ht
    simp only [branch, if_true]
    exact withOperandBytes_answers (size_of_rel hf) fun _ =>
      redirect_answers (f := fun _ => s) hg (fun _ => rfl) (fun _ => rfl)
  | false =>
    simp only [branch, Bool.false_eq_true, if_false]
    exact withOperandBytes_answers (size_of_rel hf) fun _ => finish_answers (size_of_rel hf) (hr rfl) rfl rfl

/-- Everything an instruction can do, in every state. -/
theorem exec_answers (i : Instr) (s : State) : Answers i s (exec i s) := by
  have h := exec_does i s
  generalize exec i s = r at h
  cases h with
  | load r src hm hf =>
    have hr : Claims.redirects i s = false := redirects_of_mnemonic (by rcases hm with h | h | h <;> simp [h.1])
    exact withOperandBytes_answers (size_of_source hf) fun _ => withOperand_answers hf fun m =>
      finish_answers (size_of_source hf) hr (by simp) (by simp)
  | store v ref hm hf =>
    have hr : Claims.redirects i s = false := redirects_of_mnemonic (by rcases hm with h | h | h <;> simp [h.1])
    exact withOperandBytes_answers (size_of_mem hf) fun _ => withEffectiveAddress_answers hf fun a =>
      finish_answers (size_of_mem hf) hr rfl rfl
  | move r v hm hf =>
    have hr : Claims.redirects i s = false := redirects_of_mnemonic
      (by rcases hm with h | h | h | h | h | h | h | h | h <;> simp [h.1])
    exact finish_answers (by rw [Instr.size, Instr.mode, hf]; rfl) hr (by simp) (by simp)
  | accumulate op src hm hf =>
    have hr : Claims.redirects i s = false := redirects_of_mnemonic (by rcases hm with h | h | h | h | h <;> simp [h.1])
    exact withOperandBytes_answers (size_of_source hf) fun _ => withOperand_answers hf fun m =>
      finish_answers (size_of_source hf) hr rfl rfl
  | compare r src hm hf =>
    have hr : Claims.redirects i s = false := redirects_of_mnemonic (by rcases hm with h | h | h <;> simp [h.1])
    exact withOperandBytes_answers (size_of_source hf) fun _ => withOperand_answers hf fun m =>
      finish_answers (size_of_source hf) hr rfl rfl
  | modify op p hm hf =>
    have hr : Claims.redirects i s = false := redirects_of_mnemonic (by rcases hm with h | h | h | h | h | h <;> simp [h.1])
    refine withOperandBytes_answers (size_of_place hf) fun _ => ?_
    cases p with
    | acc => exact finish_answers (size_of_place hf) hr rfl rfl
    | mem ref =>
      exact withEffectiveAddress_answers (form_of_place_mem.1 hf) fun a => finish_answers (size_of_place hf) hr rfl rfl
  | branch taken b hm hf =>
    have ht : Claims.branchTaken i s = taken := by
      rcases hm with ⟨h, rfl⟩ | ⟨h, rfl⟩ | ⟨h, rfl⟩ | ⟨h, rfl⟩ | ⟨h, rfl⟩ | ⟨h, rfl⟩ <;> simp [Claims.branchTaken, h]
    have hr : taken = false → Claims.redirects i s = false := fun hn => by
      rcases hm with h | h | h | h | h | h <;> simp [Claims.redirects, ht, hn, h.1]
    exact branch_answers hf ht hr
  | txs hi => subst hi; exact finish_answers rfl rfl rfl rfl
  | jmp w hi =>
    subst hi
    exact withOperandBytes_answers rfl fun _ => ⟨_, rfl, .redirect s w (.jmp w rfl) rfl rfl⟩
  | jsr w hi =>
    subst hi
    exact withOperandBytes_answers rfl fun _ => ⟨_, rfl,
      .redirect { (s.push (hiByte (s.pc + 2))).push (loByte (s.pc + 2)) with depth := s.depth + 1 } w (.jsr w rfl) rfl rfl⟩
  | rts hi =>
    subst hi
    by_cases hd : s.depth = 0
    · exact ⟨_, if_pos hd, .returned rfl hd⟩
    · rw [execRts, if_neg hd, pulled_target]
      exact redirect_answers (f := fun _ => { s.pull.pull with depth := s.depth - 1 }) (.rts rfl (by omega)) (fun _ => rfl)
        (fun _ => rfl)
  | pha hi => subst hi; exact finish_answers rfl rfl rfl rfl
  | pla hi => subst hi; exact finish_answers rfl rfl rfl rfl
  | clc hi => subst hi; exact finish_answers rfl rfl rfl rfl
  | sec hi => subst hi; exact finish_answers rfl rfl rfl rfl
  | nop hi => subst hi; exact finish_answers rfl rfl rfl rfl
  | unsupported hm => exact ⟨_, rfl, .unsupported (inExecSet_tierD _ (DecodedOnlyInstr.opcode_tierD hm))⟩

theorem exec_effect {t : State} (h : exec i s = .next t) : Effect i s t := by
  obtain ⟨t', ht, he⟩ := exec_answers i s
  cases ht.symm.trans h
  exact he

end

end Sys2Proof.Machine
end

section
/-! PROOFS. What follows for `PC`, `steps` and `depth` from everything an instruction can do. -/

namespace Sys2Proof.Machine

section
variable {i : Instr} {s t : State}

/-- A run that goes on after an instruction has committed it, and is one step further. -/
theorem exec_steps (h : exec i s = .next t) (ht : t.outcome = .running) : t.steps = s.steps + 1 := by
  cases exec_effect h with
  | advance s' hr hc ho hn => exact congrArg (· + 1) hn
  | redirect s' p hg ho hn => exact congrArg (· + 1) hn
  | _ => cases ht

/-- A commit that does not redirect advances by the size. -/
theorem exec_pc_advance (h : exec i s = .next t) (ht : t.outcome = .running) (hr : Claims.redirects i s = false) :
    t.pc.toNat = s.pc.toNat + i.size := by
  cases exec_effect h with
  | advance s' _ hc _ _ =>
    show (s.pc + BitVec.ofNat 16 i.size).toNat = _
    rw [BitVec.toNat_add, BitVec.toNat_ofNat]
    omega
  | redirect s' p hg _ _ => rw [hg.redirects] at hr; cases hr
  | _ => cases ht

/-- A commit that redirects goes to its target. -/
theorem exec_pc_goesTo (h : exec i s = .next t) (ht : t.outcome = .running) (hr : Claims.redirects i s = true) :
    GoesTo i s t.pc.toNat := by
  cases exec_effect h with
  | advance s' hr' _ _ _ => rw [hr'] at hr; cases hr
  | redirect s' p hg _ _ => exact hg
  | _ => cases ht

/-- An executed instruction whose address is in space and that has no next address raises, and commits nothing. -/
theorem exec_noNext (hx : inExecSet i.opcode = true) (hr : Claims.redirects i s = false)
    (he : ∀ r, i.form = .mem r → effectiveAddress r s ≤ 65535) (hp : s.pc.toNat + i.size = 65536) :
    exec i s = .next (Claims.violation s (s.pc.toNat + i.size)) := by
  obtain ⟨t, ht, hi⟩ := exec_answers i s
  rw [ht]
  cases hi with
  | advance s' _ hc _ _ => omega
  | redirect s' p hg _ _ => rw [hg.redirects] at hr; cases hr
  | missing h => omega
  | outside r hf h => have := he r hf; omega
  | noNext h => rfl
  | noTarget a hg h => rw [hg.redirects] at hr; cases hr
  | returned hi hd => subst hi; cases hr
  | unsupported h => rw [h] at hx; cases hx

theorem GoesTo.eq_target {a : Int} {b : Byte} (h : GoesTo i s a) (hf : i.form = .rel b) : a = Claims.target s b := by
  cases h with
  | branch b' hf' _ => cases hf.symm.trans hf'; rfl
  | jmp w hi => subst hi; cases hf
  | jsr w hi => subst hi; cases hf
  | rts hi _ => subst hi; cases hf

theorem GoesTo.eq_word {a : Int} {w : Addr} (h : GoesTo i s a) (hi : i = .jmpAbs w ∨ i = .jsr w) : a = w.toNat := by
  cases h with
  | jmp w' hi' => subst hi'; rcases hi with h | h <;> cases h; rfl
  | jsr w' hi' => subst hi'; rcases hi with h | h <;> cases h; rfl
  | branch b hf _ => rcases hi with rfl | rfl <;> cases hf
  | rts hi' _ => subst hi'; rcases hi with h | h <;> cases h

theorem GoesTo.eq_returnTarget {a : Int} (h : GoesTo .rts s a) : a = Claims.returnTarget s := by
  cases h with
  | rts => rfl
  | jmp w hi => cases hi
  | jsr w hi => cases hi
  | branch b hf _ => cases hf

end

/-! ### JSR and RTS -/

/-- A JSR that commits counts the call (spec/10_state.md R38). -/
theorem execJsr_depth {w : Addr} {s t : State} (h : execJsr w s = .next t) (ht : t.outcome = .running) :
    t.depth = s.depth + 1 := by
  rcases withOperandBytes_cases (by decide) (by decide) h with ⟨_, h⟩ | ⟨_, rfl⟩
  · rw [← result_next_inj.1 h]
  · cases ht

/-- An RTS that commits had a call to count down. -/
theorem execRts_depth {s t : State} (h : execRts s = .next t) (ht : t.outcome = .running) : t.depth + 1 = s.depth := by
  unfold execRts at h
  split at h
  · rw [← result_next_inj.1 h] at ht
    cases ht
  · rcases withAddress_cases h with ⟨_, _, h⟩ | ⟨_, rfl⟩
    · rw [← result_next_inj.1 h]
      exact Nat.sub_add_cancel (by omega)
    · cases ht

theorem execRts_terminal {s : State} (hd : s.depth = 0) :
    execRts s = .next { s with outcome := .returned, steps := s.steps + 1 } := if_pos hd

/-! ### A step, a launch -/

theorem step_steps {s t : State} (hr : s.outcome = .running) (h : step s = .next t) (ht : t.outcome = .running) :
    t.steps = s.steps + 1 := by
  rcases step_cases hr h with ⟨_, rfl⟩ | ⟨_, _, rfl⟩ | ⟨_, _, d, _, _, rfl⟩ | ⟨_, _, i, rest, _, _, _, _, he⟩
  · cases ht
  · cases ht
  · cases ht
  · exact exec_steps he ht

theorem launch_some {li : LaunchInputs} {s : State} (h : launch li = some s) : li.wf ∧ s = li.state := by
  unfold launch at h
  split at h
  · exact ⟨‹_›, (Option.some.inj h).symm⟩
  · cases h

end Sys2Proof.Machine
end

section
/-! PROOFS. The stack and the flags as spec/10_state.md R27, R28, R32 and R35 spell them. -/

namespace Sys2Proof.Machine

theorem State.push_eq (s : State) (v : Byte) :
    s.push v = { s with mem := s.mem.write (0x0100 + s.sp.toNat) v, sp := s.sp - 1 } := by
  rw [← stackAddr_toNat]
  rfl

theorem State.pulled_eq (s : State) : s.pulled = s.mem.read (0x0100 + (s.sp + 1).toNat) := by
  rw [State.pulled, State.byteAt, stackAddr_toNat]

/-- The byte pulled after a push is the byte pushed: one more than the new `SP` names the slot that was
written, wherever it wraps. -/
theorem State.pulled_push {s : State} (v : Byte) (hm : s.mem.wf) : (s.push v).pulled = v := by
  simp only [State.pulled, State.byteAt, State.sp_push, State.mem_push, BitVec.sub_add_cancel]
  exact Memory.read_write_same v hm

theorem State.setNZ_eq (s : State) (v : Byte) : s.setNZ v = { s with z := decide (v = 0), n := v.getLsbD 7 } := by
  rw [← bit_seven]
  rfl

/-- Each bit of the packed flags, decided over the eight values of N, Z and C. -/
theorem State.packedFlags_getLsbD (s : State) {k : Nat} (hk : k < 8) :
    s.packedFlags.getLsbD k = if k = 7 then s.n else if k = 1 then s.z else if k = 0 then s.c else false := by
  unfold State.packedFlags
  generalize s.n = n, s.z = z, s.c = c
  revert n z c k
  decide

end Sys2Proof.Machine
end

section
/-! PROOFS. The statements about the state (spec/10_state.md): O25, O31, O32, O33, O26, O34. -/

namespace Sys2Proof.Proofs

open Sys2Proof.Machine

/-- Settles O25: `push` and `pulled` in the spec's words, and the pull after a push. -/
theorem stackDiscipline : Obligations.StackDiscipline := by
  refine ⟨State.push_eq, fun s => ⟨rfl, s.pulled_eq⟩, fun s v hm => ⟨State.pulled_push v hm, ?_⟩, fun s v hsp => ?_,
    fun s hsp => ?_⟩
  · exact BitVec.sub_add_cancel s.sp 1
  · simp [State.push_eq, hsp]
  · simp [State.pulled_eq, hsp]

/-- Settles O31, from everything an instruction can do: a commit advances or goes to its one target. -/
theorem advanceOrRedirect : Obligations.AdvanceOrRedirect := by
  refine ⟨fun i s t _ h ht => ⟨exec_pc_advance h ht, fun w hw => ?_, fun b hf hb => ?_, fun hi => ?_⟩,
    fun i s hx hr he hp => exec_noNext hx hr he hp⟩
  · have hr : Claims.redirects i s = true := by rcases hw with rfl | rfl <;> rfl
    exact BitVec.eq_of_toNat_eq (Int.ofNat.inj ((exec_pc_goesTo h ht hr).eq_word hw))
  · have hr : Claims.redirects i s = true := by simp [Claims.redirects, hb]
    exact (exec_pc_goesTo h ht hr).eq_target hf
  · subst hi
    exact Int.ofNat.inj (exec_pc_goesTo h ht rfl).eq_returnTarget

/-- Settles O32: a commit counts, and over other counters an instruction does the same (`Recount.exec_apply`). -/
theorem stepsCounter : Obligations.StepsCounter := by
  refine ⟨fun li s h => ?_, fun s t => step_steps, fun s hr hb => ?_, fun i s t n b => exec_withSteps n b⟩
  · rw [(launch_some h).2]
    rfl
  · exact step_of_fetch_raised hr (fetch_budget hb)

/-- Settles O33: JSR and RTS by their cases, every other instruction by `Recount.exec_apply`. -/
theorem depthCounter : Obligations.DepthCounter := by
  refine ⟨fun li s h => ?_, fun w s t _ h ht => execJsr_depth h ht, fun s t _ h ht => execRts_depth h ht,
    fun s => execRts_terminal, fun i s t d hi h => ⟨exec_depth hi h, exec_withDepth d hi h⟩⟩
  rw [(launch_some h).2]
  rfl

/-- Settles O26. -/
theorem flagLaws : Obligations.FlagLaws := by
  refine ⟨State.setNZ_eq, fun s => ⟨rfl, rfl⟩, fun s => ?_⟩
  refine ⟨s.packedFlags_getLsbD (by omega), s.packedFlags_getLsbD (by omega), s.packedFlags_getLsbD (by omega),
    fun k h₂ h₆ => ?_⟩
  rw [s.packedFlags_getLsbD (by omega), if_neg (by omega), if_neg (by omega), if_neg (by omega)]

/-- Settles O34: an accepted launch is the launch state, whose PC is START because START is in the address space. -/
theorem runInputsAndOutputs : Obligations.RunInputsAndOutputs := by
  refine ⟨fun li s h => ?_, fun s => ⟨fun h => if_pos h, fun h => if_neg h⟩⟩
  obtain ⟨⟨hstart, _⟩, rfl⟩ := launch_some h
  exact ⟨rfl, Nat.mod_eq_of_lt hstart, rfl, rfl, rfl, rfl, rfl, rfl⟩

end Sys2Proof.Proofs
end

section
/-! PROOFS. What the fetch gives and raises (spec/20_memory.md R56), and the effective addresses and the branch target as
spec/20_memory.md R60 to R67 spell them. -/

namespace Sys2Proof

/-- A format looks at no operand byte beyond its size (spec/30_encoding.md R71). -/
theorem Make.build_take (m : Make) (bytes : List Byte) :
    m.build ((bytes.take (m.size - 1)).getD 0 0) ((bytes.take (m.size - 1)).getD 1 0) =
      m.build (bytes.getD 0 0) (bytes.getD 1 0) := by
  cases m <;> simp [Make.build, Make.size, List.getD_eq_getElem?_getD]

/-- An instruction decodes from its own bytes alone. -/
theorem decode_take {bytes rest : List Byte} {i : Instr} (h : decode bytes = .instr i rest) :
    decode (bytes.take i.size) = .instr i [] := by
  obtain ⟨op, tl, r, rfl, hr, hl, rfl, _⟩ := decode_instr_cases h
  have hrow := (lookup_some hr).1
  obtain ⟨_, _, hmode⟩ := allRows_make r hrow (tl.getD 0 0) (tl.getD 1 0)
  have hmake : r.size = r.make.size := (allRows_size r hrow).symm
  have hsize : (r.make.build (tl.getD 0 0) (tl.getD 1 0)).size = r.make.size := (congrArg Mode.size hmode).trans hmake
  have hpos := r.size_pos
  have hlen : (tl.take (r.make.size - 1)).length = r.make.size - 1 := List.length_take_of_le (by omega)
  rw [hsize, List.take_cons (by omega), decode_instr hr (by omega), r.make.build_take, hmake, List.drop_take_self]

end Sys2Proof

namespace Sys2Proof.Machine

/-! ### Fetch -/

/-- The bytes a size calls for, where they are in the address space. -/
theorem window_take (m : Memory) {n k : Nat} (hn : n ≤ 3) (h : k + n ≤ 65536) :
    (m.window 3 k).take n = [m.read k, m.read (k + 1), m.read (k + 2)].take n := by
  refine List.ext_getElem? fun j => ?_
  by_cases hj : j < n
  · rw [List.getElem?_take_of_lt hj, List.getElem?_take_of_lt hj, window_get m (by omega) (by omega)]
    obtain rfl | rfl | rfl : j = 0 ∨ j = 1 ∨ j = 2 := by omega
    all_goals rfl
  · rw [List.getElem?_take_eq_none (by omega), List.getElem?_take_eq_none (by omega)]

theorem opcodeTable_size_le {op : Byte} {d : Descriptor} (h : opcodeTable op = some d) : d.size ≤ 3 := by
  obtain ⟨r, _, rfl⟩ := opcodeTable_some h
  exact r.size_le

/-- A step that fetches all its bytes executes what they decode to. -/
theorem step_of_bytesInSpace {s : State} {d : Descriptor} (hr : Ready s) (hd : opcodeTable (s.byteAt s.pc) = some d)
    (hx : inExecSet (s.byteAt s.pc) = true) (hb : s.pc.toNat + d.size ≤ 65536) :
    ∃ i, decode ((s.mem.window 3 s.pc.toNat).take d.size) = .instr i [] ∧ step s = exec i s := by
  obtain ⟨hrun, hbudget⟩ := hr
  obtain ⟨i, rest, hi, _, rfl⟩ := decode_fetchWindow hd hb
  exact ⟨i, decode_take hi, step_of_fetch_instr hrun (fetch_instr hbudget hx hi)⟩

/-- A step whose operand bytes are not all in the address space raises for the first address past its end. -/
theorem step_of_missing {s : State} {d : Descriptor} (hr : Ready s) (hd : opcodeTable (s.byteAt s.pc) = some d)
    (hx : inExecSet (s.byteAt s.pc) = true) (hm : 65536 < s.pc.toNat + d.size) :
    step s = .next (Claims.violation s 65536) := by
  obtain ⟨hrun, hbudget⟩ := hr
  exact step_of_fetch_raised hrun (fetch_missing hbudget hx hd hm)

/-! ### An instruction whose effective address is outside -/

/-- BIT, the one decoded-only instruction with a memory operand, has no mode that leaves the address space. -/
theorem DecodedOnlyInstr.effectiveAddress_le {i : Instr} {r : MemRef} (h : DecodedOnlyInstr i) (hf : i.form = .mem r)
    (s : State) : effectiveAddress r s ≤ 65535 := by
  have hbit : (∃ b, r = .zp b) ∨ ∃ w, r = .abs w := by
    cases i <;>
      simp [DecodedOnlyInstr, Instr.mnemonic, Instr.mode, Instr.form, OperandForm.mode, MemRef.mode] at h <;> cases hf
    case bitZp b => exact .inl ⟨b, rfl⟩
    case bitAbs w => exact .inr ⟨w, rfl⟩
  obtain ⟨b, rfl⟩ | ⟨w, rfl⟩ := hbit
  · exact Nat.le_trans (Nat.le_of_lt b.isLt) (by decide)
  · exact Nat.le_of_lt_succ w.isLt

/-- An executed instruction with a memory operand checks its operand bytes, then its effective address, before anything else. -/
theorem exec_mem {i : Instr} {r : MemRef} (hf : i.form = .mem r) (s : State) :
    DecodedOnlyInstr i ∨ ∃ k, exec i s = withOperandBytes (memRefSize r) s (withEffectiveAddress r s k) := by
  have hsrc := form_of_source_mem.2 hf
  have hplace := form_of_place_mem.2 hf
  have h := exec_does i s
  generalize exec i s = res at h
  cases h with
  | load _ src _ hf' => cases hsrc.symm.trans hf'; exact .inr ⟨_, rfl⟩
  | store _ ref _ hf' => cases hf.symm.trans hf'; exact .inr ⟨_, rfl⟩
  | accumulate _ src _ hf' => cases hsrc.symm.trans hf'; exact .inr ⟨_, rfl⟩
  | compare _ src _ hf' => cases hsrc.symm.trans hf'; exact .inr ⟨_, rfl⟩
  | modify _ p _ hf' => cases hplace.symm.trans hf'; exact .inr ⟨_, rfl⟩
  | move _ _ _ hf' => cases hf.symm.trans hf'
  | branch _ _ _ hf' => cases hf.symm.trans hf'
  | unsupported hm => exact .inl hm
  | _ => rename_i hi; subst hi; cases hf

/-- An effective address outside the address space is raised, and nothing committed, wherever the bytes of the instruction
could be fetched (spec/20_memory.md R63, R65). -/
theorem exec_outside {i : Instr} {r : MemRef} {s : State} (hf : i.form = .mem r) (hb : BytesInSpace i.size s)
    (ho : 65535 < effectiveAddress r s) : exec i s = .next (Claims.violation s (effectiveAddress r s)) := by
  rcases exec_mem hf s with hd | ⟨k, hk⟩
  · have := hd.effectiveAddress_le hf s
    omega
  · rw [size_of_mem hf] at hb
    rw [hk]
    exact withEffectiveAddressFinish_out hb ho

/-! ### The zero-page pointer -/

theorem zpPointer_eq (p : Byte) (s : State) :
    zpPointer p s = (s.mem.read ((p.toNat + 1) % 256)).toNat * 256 + (s.mem.read p.toNat).toNat := by
  rw [zpPointer, BitVec.toNat_add]
  rfl

theorem effectiveAddress_indX {p b : Byte} {s : State} (h : p.toNat = (b.toNat + s.x.toNat) % 256) :
    effectiveAddress (.indX b) s = zpPointer p s := by
  have hp : b + s.x = p := BitVec.eq_of_toNat_eq ((BitVec.toNat_add b s.x).trans h.symm)
  rw [← hp]
  rfl

/-! ### The branch target -/

theorem branchTarget_eq (a : Addr) (b : Byte) : branchTarget a b = (a.toNat : Int) + 2 + b.toInt := by
  rw [branchTarget, sext8_eq]

theorem relativeTarget_in {t : Int} (h : 0 ≤ t ∧ t ≤ 65535) : relativeTarget t = .resolved (BitVec.ofInt 16 t) := by
  obtain ⟨n, rfl⟩ := Int.eq_ofNat_of_zero_le h.1
  rw [relativeTarget, if_pos h, BitVec.ofInt_natCast]
  rfl

theorem relativeTarget_out {t : Int} (h : t < 0 ∨ 65535 < t) : relativeTarget t = .invalid := if_neg (by omega)

theorem bytesInSpace_two {s : State} (h : s.pc ≠ 0xFFFF) : BytesInSpace 2 s := by
  have hne : s.pc.toNat ≠ 65535 := fun e => h (BitVec.eq_of_toNat_eq e)
  have := s.pc.isLt
  omega

/-- A branch whose condition holds is executed as taken: BVC and BVS, which are not executed, have none. -/
theorem exec_of_taken {i : Instr} {b : Byte} {s : State} (hf : i.form = .rel b) (ht : Claims.branchTaken i s = true) :
    exec i s = branch true b s := by
  suffices h : exec i s = branch (Claims.branchTaken i s) b s by rwa [ht] at h
  cases i <;> cases hf
  case bvc => cases ht
  case bvs => cases ht
  all_goals rfl

/-- A taken branch to an integer outside the address space raises (spec/20_memory.md R67). -/
theorem branch_outside {b : Byte} {s : State} (hb : BytesInSpace 2 s)
    (ho : branchTarget s.pc b < 0 ∨ 65535 < branchTarget s.pc b) :
    branch true b s = .next (Claims.violation s (branchTarget s.pc b)) := by
  rw [branch, withOperandBytes_in (by omega) (by omega) hb, if_pos rfl, withAddress_out ho]
  rfl

end Sys2Proof.Machine
end

section
/-! PROOFS. The statements about fetch and the address modes (spec/20_memory.md): O12, O22, O23, O24, O21. -/

namespace Sys2Proof.Proofs

open Sys2Proof.Machine

/-- Settles O12: the first address past the end of memory is `PC+1` for `PC = 0xFFFF` and `PC+2` for `PC = 0xFFFE`. -/
theorem operandFetch : Obligations.OperandFetch := by
  intro s d hr hd hx
  refine ⟨fun hb => ?_, fun h₂ ho => ?_, fun h₃ hi ho => ?_⟩
  · obtain ⟨i, hi, he⟩ := step_of_bytesInSpace hr hd hx hb
    rw [window_take s.mem (opcodeTable_size_le hd) hb] at hi
    exact ⟨i, hi, he⟩
  · have ha : (s.pc.toNat : Int) + 1 = 65536 := by omega
    rw [ha]
    exact step_of_missing hr hd hx (by omega)
  · have ha : (s.pc.toNat : Int) + 2 = 65536 := by omega
    rw [ha]
    exact step_of_missing hr hd hx (by omega)

/-- Settles O22: the sum by `word16_toNat`, the violation by `exec_outside`. -/
theorem absoluteAddresses : Obligations.AbsoluteAddresses := by
  refine ⟨fun b1 b2 s => ⟨word16_toNat b2 b1, ?_, ?_, effectiveAddress_le _ s, effectiveAddress_le _ s, rfl, rfl⟩,
    fun i w s r _ hf hb ho => exec_outside hf hb ho⟩
  · exact congrArg (· + s.x.toNat) (word16_toNat b2 b1)
  · exact congrArg (· + s.y.toNat) (word16_toNat b2 b1)

/-- Settles O23: the pointer's addresses are bytes and so wrap in the zero page. -/
theorem indirectAddresses : Obligations.IndirectAddresses :=
  ⟨fun p b s => ⟨zpPointer_eq p s, zpPointer_eq 0xFF s, effectiveAddress_indX, zpPointer_le (b + s.x) s, rfl⟩,
    fun _ _ _ hf hb ho => exec_outside hf hb ho⟩

/-- Settles O24: the Decoder and the Executor check the one integer target. -/
theorem relativeTarget : Obligations.RelativeTarget := by
  intro a b
  obtain ⟨hlo, hhi⟩ := sext8_bounds b
  obtain ⟨htlo, hthi⟩ := branchTarget_bounds a b
  refine ⟨hlo, hhi, sext8_eq b, branchTarget_eq a b, htlo, hthi, relativeTarget_in,
    fun ho => ⟨relativeTarget_out ho, fun i s hp hne hf ht => ?_⟩⟩
  subst hp
  rw [exec_of_taken hf ht, branch_outside (bytesInSpace_two hne) ho]

/-- Settles O21: a sum taken modulo 256 is a zero-page address. -/
theorem zeroPageAddresses : Obligations.ZeroPageAddresses := by
  intro b s
  have hmod : ∀ n : Nat, n % 256 ≤ 0x00FF := fun n => Nat.le_of_lt_succ (Nat.mod_lt n (by decide))
  refine ⟨rfl, rfl, rfl, fun r hr => ?_, fun hb hx => ?_⟩
  · simp only [List.mem_cons, List.not_mem_nil, or_false] at hr
    rcases hr with rfl | rfl | rfl
    · exact Nat.le_of_lt_succ b.isLt
    · exact hmod _
    · exact hmod _
  · rw [effectiveAddress, hb, hx]
    rfl

end Sys2Proof.Proofs
end

section
/-! PROOFS. The Opcode Table and one turn of the Decoder (spec/30_encoding.md): which bytes have a row, that an instruction is
encoded by the bytes it is decoded from, and that the record of a row is the record of its instruction. -/

namespace Sys2Proof

open Sys2Proof.Machine

/-! ### The bytes of the table -/

theorem allRows_byte_nodup : (allRows.map Row.byte).Nodup := by
  refine List.Nodup.of_map BitVec.toNat ?_
  rw [List.map_map]
  exact allRows_rising.imp Nat.ne_of_lt

/-- Every row is the row of its byte. -/
theorem lookup_of_mem {r : Row} (h : r ∈ allRows) : lookup r.byte = some r := by
  have hs : (lookup r.byte).isSome := by
    rw [lookup_isSome, List.contains_iff_mem]
    exact List.mem_map_of_mem h
  obtain ⟨r', hr'⟩ := Option.isSome_iff_exists.mp hs
  obtain ⟨hm, hb⟩ := lookup_some hr'
  rw [hr', List.inj_on_of_nodup_map allRows_byte_nodup hm h hb]

theorem lookup_eq_none {op : Byte} : lookup op = none ↔ op ∉ allRows.map Row.byte := by
  rw [← List.contains_iff_mem, ← lookup_isSome, Option.not_isSome_iff_eq_none]

/-- EXEC_SET is the bytes of the rows it takes (spec/30_encoding.md R88). -/
theorem inExecSet_iff {op : Byte} : inExecSet op = true ↔ ∃ r ∈ allRows, r.executed = true ∧ r.byte = op := by
  constructor
  · intro h
    obtain ⟨r, hr, hx⟩ := inExecSet_lookup h
    obtain ⟨hm, hb⟩ := lookup_some hr
    exact ⟨r, hm, hx, hb⟩
  · rintro ⟨r, hm, hx, rfl⟩
    rw [inExecSet_of_lookup (lookup_of_mem hm), hx]

theorem inExecSet_of_none {op : Byte} (h : lookup op = none) : inExecSet op = false := by rw [inExecSet, h]

theorem Row.executed_iff (r : Row) : r.executed = true ↔ r.tier = .s ∨ r.tier = .c ∨ r.tier = .g := by
  simp [Row.executed, Config.execTiers]

/-- The size rule of spec/30_encoding.md R73. -/
theorem Mode.size_cases (m : Mode) :
    (m.size = 1 ∨ m.size = 2 ∨ m.size = 3) ∧
    (m.size = 1 ↔ m ∈ [.implied, .accumulator]) ∧
    (m.size = 2 ↔ m ∈ [.immediate, .zeroPage, .zeroPageX, .zeroPageY, .indexedIndirect, .indirectIndexed, .relative]) ∧
    (m.size = 3 ↔ m ∈ [.absolute, .absoluteX, .absoluteY, .indirect]) := by
  cases m <;> decide

/-! ### The undefined bytes -/

theorem undefinedBytes_nodup : Claims.undefinedBytes.Nodup := by
  have h : (Claims.undefinedBytes.map BitVec.toNat).IsChain (· < ·) := by decide +kernel
  exact List.Nodup.of_map BitVec.toNat ((List.isChain_iff_pairwise.mp h).imp Nat.ne_of_lt)

theorem lookup_undefinedBytes : ∀ op ∈ Claims.undefinedBytes, lookup op = none := by decide

/-- The 151 bytes of the rows and the 105 undefined bytes are all 256 (spec/30_encoding.md R90, R91). -/
theorem mem_rows_or_undefined (op : Byte) : op ∈ allRows.map Row.byte ∨ op ∈ Claims.undefinedBytes := by
  have hdis : (allRows.map Row.byte).Disjoint Claims.undefinedBytes := fun b hb hu =>
    lookup_eq_none.mp (lookup_undefinedBytes b hu) hb
  have hnodup := allRows_byte_nodup.append undefinedBytes_nodup hdis
  have hcard : (allRows.map Row.byte ++ Claims.undefinedBytes).toFinset.card = Fintype.card Byte := by
    rw [List.toFinset_card_of_nodup hnodup, List.length_append, List.length_map, allRows_length,
      ← FinEnum.card_eq_fintypeCard, FinEnum.card_bitVec]
    rfl
  rw [← List.mem_append, ← List.mem_toFinset, Finset.eq_univ_of_card _ hcard]
  exact Finset.mem_univ op

theorem lookup_eq_none_iff_undefined {op : Byte} : lookup op = none ↔ op ∈ Claims.undefinedBytes :=
  ⟨fun h => (mem_rows_or_undefined op).resolve_left (lookup_eq_none.mp h), lookup_undefinedBytes op⟩

/-! ### An instruction is encoded by the bytes it is decoded from -/

theorem loByte_word16 (hi lo : Byte) : loByte (word16 hi lo) = lo := by
  have := lo.isLt
  apply BitVec.eq_of_toNat_eq
  rw [loByte, word16_toNat, BitVec.toNat_ofNat]
  omega

theorem hiByte_word16 (hi lo : Byte) : hiByte (word16 hi lo) = hi := by
  have := hi.isLt
  have := lo.isLt
  apply BitVec.eq_of_toNat_eq
  rw [hiByte, word16_toNat, BitVec.toNat_ofNat]
  omega

/-- The operand bytes of the instruction a format builds, as the encoder splits them. -/
def Make.operandBytes : Make → Byte → Byte → List Byte
  | .f1 _, _, _ => []
  | .f2 _, b1, _ => [b1]
  | .f3 _, b1, b2 => [loByte (word16 b2 b1), hiByte (word16 b2 b1)]

theorem Make.operandBytes_eq (m : Make) (b1 b2 : Byte) : m.operandBytes b1 b2 = [b1, b2].take (m.size - 1) := by
  cases m with
  | f1 => rfl
  | f2 => rfl
  | f3 => rw [Make.operandBytes, loByte_word16, hiByte_word16]; rfl

/-- The instruction a row makes has the operand bytes it is made from. -/
abbrev Row.KeepsOperandBytes (r : Row) : Prop :=
  ∀ b1 b2, (r.make.build b1 b2).form.bytes = r.make.operandBytes b1 b2

theorem allRows_keepsOperandBytes : ∀ r ∈ allRows, r.KeepsOperandBytes := by
  intro r hr
  fin_cases hr <;> exact fun _ _ => rfl

theorem encode_length (i : Instr) : (encode i).length = i.size := (tableRow_of i).2.2.2

theorem opcodeTable_opcode (i : Instr) : opcodeTable i.opcode = some i.descriptor := (tableRow_of i).1

theorem form_bytes_length (i : Instr) : i.form.bytes.length = i.size - 1 := by
  rw [← encode_length, encode, List.length_cons, Nat.add_sub_cancel]

theorem take_getD_pair (l : List Byte) {n : Nat} (hn : n ≤ 2) (hl : n ≤ l.length) :
    [l.getD 0 0, l.getD 1 0].take n = l.take n := by
  match n, l with
  | 0, _ => rfl
  | 1, _ :: _ => rfl
  | 2, _ :: _ :: _ => rfl
  | 1, [] | 2, [] | 2, [_] => simp at hl

/-- What decodes has the operand bytes that stand behind its opcode. -/
theorem decode_form_bytes {op : Byte} {tl rest : List Byte} {i : Instr} (h : decode (op :: tl) = .instr i rest) :
    i.form.bytes = tl.take (i.size - 1) := by
  obtain ⟨_, _, hl, _⟩ := decode_instr_row h
  obtain ⟨_, _, r, he, hr, _, hi, _⟩ := decode_instr_cases h
  cases he
  have hm := (lookup_some hr).1
  have hsize : i.size = r.make.size := by
    rw [hi, Instr.size, (allRows_make r hm _ _).2.2, allRows_size r hm]
  have hle := i.size_le
  rw [← take_getD_pair tl (by omega) (by omega), hsize, ← Make.operandBytes_eq, ← allRows_keepsOperandBytes r hm, ← hi]

theorem encode_of_decode {op : Byte} {tl rest : List Byte} {i : Instr} (h : decode (op :: tl) = .instr i rest) :
    encode i = (op :: tl).take i.size := by
  have hpos := i.size_pos
  rw [encode, (decode_instr_row h).1, decode_form_bytes h, List.take_cons (by omega)]

/-- An instruction's bytes decode to it, whatever follows them. -/
theorem decode_encode_append (i : Instr) (rest : List Byte) : decode (encode i ++ rest) = .instr i rest := by
  obtain ⟨r, hr, hsize, hbuild⟩ := lookup_rebuilds i rest
  have hlen := form_bytes_length i
  rw [encode, List.cons_append, decode_instr hr (by rw [List.length_append]; omega), hbuild, hsize, ← hlen, List.drop_left]

theorem decode_encode (i : Instr) : decode (encode i) = .instr i [] := by
  simpa using decode_encode_append i []

/-! ### The operand of a form from its bytes -/

/-- The two bytes of a word are its bytes (spec/30_encoding.md R76). -/
theorem word_of_bytes {w : Addr} {b1 b2 : Byte} (h : [loByte w, hiByte w] = [b1, b2]) :
    w.toNat = b2.toNat * 256 + b1.toNat ∧ w.toNat % 256 = b1.toNat ∧ w.toNat / 256 = b2.toNat := by
  cases h
  have hw := word16_toNat (hiByte w) (loByte w)
  have := (loByte w).isLt
  rw [word16_hiByte_loByte] at hw
  omega

/-- The operand of a form of two bytes is byte 1 as it stands (spec/30_encoding.md R74, R75, R77). -/
theorem form_of_byte {f : OperandForm} {b1 b2 : Byte} (h : f.bytes = [b1, b2].take (f.mode.size - 1)) :
    (f.mode = .immediate → f = .imm b1) ∧
    (f.mode = .zeroPage → f = .mem (.zp b1)) ∧ (f.mode = .zeroPageX → f = .mem (.zpX b1)) ∧
    (f.mode = .zeroPageY → f = .mem (.zpY b1)) ∧ (f.mode = .indexedIndirect → f = .mem (.indX b1)) ∧
    (f.mode = .indirectIndexed → f = .mem (.indY b1)) ∧ (f.mode = .relative → f = .rel b1) := by
  have hb : ∀ b : Byte, [b] = [b1] → b = b1 := fun _ => List.head_eq_of_cons_eq
  cases f with
  | imm b => simp [OperandForm.mode, hb b h]
  | rel b => simp [OperandForm.mode, hb b h]
  | mem r =>
    cases r with
    | zp b | zpX b | zpY b | indX b | indY b => simp [OperandForm.mode, MemRef.mode, hb b h]
    | abs w | absX w | absY w => simp [OperandForm.mode, MemRef.mode]
  | implied | accumulator | jump w | pointer w => simp [OperandForm.mode]

/-- The operand of a form of three bytes is the word of byte 2 above byte 1 (spec/30_encoding.md R76). -/
theorem form_of_word {f : OperandForm} {b1 b2 : Byte} (h : f.bytes = [b1, b2].take (f.mode.size - 1))
    (hm : f.mode ∈ [.absolute, .absoluteX, .absoluteY, .indirect]) :
    ∃ w : Addr, [loByte w, hiByte w] = [b1, b2] ∧
      (f = .mem (.abs w) ∨ f = .mem (.absX w) ∨ f = .mem (.absY w) ∨ f = .jump w ∨ f = .pointer w) := by
  cases f with
  | mem r =>
    cases r with
    | abs w | absX w | absY w => exact ⟨w, h, by simp⟩
    | zp b | zpX b | zpY b | indX b | indY b => simp [OperandForm.mode, MemRef.mode] at hm
  | jump w | pointer w => exact ⟨w, h, by simp⟩
  | implied | accumulator | imm b | rel b => simp [OperandForm.mode] at hm

/-! ### Records -/

theorem recordOperand_eq (f : OperandForm) :
    recordOperand f.mode.size (f.bytes.getD 0 0) (f.bytes.getD 1 0) = Claims.recordOperandOf f := by
  have hw : ∀ w : Addr, RecordOperand.word (word16 (hiByte w) (loByte w)) = .word w :=
    fun w => congrArg RecordOperand.word (word16_hiByte_loByte w)
  cases f with
  | jump w | pointer w => exact hw w
  | mem r =>
    cases r with
    | abs w | absX w | absY w => exact hw w
    | zp b | zpX b | zpY b | indX b | indY b => rfl
  | _ => rfl

theorem recordTarget_rel {a : Nat} (ha : a < 65536) (b : Byte) :
    relativeTarget (branchTarget (BitVec.ofNat 16 a) b) = Claims.recordTargetOf (.rel b) a := by
  have hT : branchTarget (BitVec.ofNat 16 a) b = (a : Int) + 2 + b.toInt := by
    rw [branchTarget_eq, BitVec.toNat_ofNat, Nat.mod_eq_of_lt ha]
  rw [hT, Claims.recordTargetOf]
  split
  · exact relativeTarget_in ‹_›
  · exact relativeTarget_out (by omega)

theorem recordTarget_eq {a : Nat} (ha : a < 65536) (f : OperandForm) :
    recordTarget f.mode (BitVec.ofNat 16 a) (f.bytes.getD 0 0) (f.bytes.getD 1 0) = Claims.recordTargetOf f a := by
  have hw : ∀ w : Addr, RecordTarget.resolved (word16 (hiByte w) (loByte w)) = .resolved w :=
    fun w => congrArg RecordTarget.resolved (word16_hiByte_loByte w)
  cases f with
  | rel b => exact recordTarget_rel ha b
  | jump w | pointer w => exact hw w
  | mem r =>
    cases r with
    | abs w | absX w | absY w => exact hw w
    | zp b | zpX b | zpY b | indX b | indY b => rfl
  | _ => rfl

theorem mkRecord_encode {r : Row} {i : Instr} {a : Nat} (hd : r.descriptor = i.descriptor) (ha : a < 65536) :
    mkRecord (BitVec.ofNat 16 a) r (encode i) = Claims.recordOf i a := by
  obtain ⟨hmn, hsize, hmode⟩ : r.mnemonic = i.mnemonic ∧ r.size = i.size ∧ r.mode = i.mode := by
    simpa [Row.descriptor, Instr.descriptor] using hd
  rw [mkRecord, hmn, hsize, hmode, Claims.recordOf, ← recordOperand_eq, ← recordTarget_eq ha]
  rfl

/-! ### One turn of the Decoder's loop (spec/30_encoding.md R85) -/

theorem decodeBuffer_nil {start : Nat} (h : start ≤ 65536) : decodeBuffer [] start = some [] := decodeBuffer_some h

theorem decodeBuffer_eq_none {buf : List Byte} {start : Nat} :
    decodeBuffer buf start = none ↔ 65536 < start + buf.length := by
  refine ⟨fun h => ?_, decodeBuffer_none⟩
  by_contra hfit
  rw [decodeBuffer_some (by omega)] at h
  cases h

section Turn
variable {op : Byte} {rest : List Byte} {start : Nat}

theorem decodeBuffer_undefined (hfit : start + (rest.length + 1) ≤ 65536) (h : lookup op = none) :
    decodeBuffer (op :: rest) start =
      (decodeBuffer rest (start + 1)).map (DecodedItem.placeholder (BitVec.ofNat 16 start) op :: ·) := by
  rw [decodeBuffer_some hfit, decodeBuffer_some (by omega), List.length_cons, decodeLoop, h]
  rfl

theorem decodeBuffer_truncated {r : Row} (hfit : start + (rest.length + 1) ≤ 65536) (h : lookup op = some r)
    (hl : rest.length + 1 < r.size) : decodeBuffer (op :: rest) start = some [] := by
  rw [decodeBuffer_some hfit, List.length_cons, decodeLoop, h]
  exact congrArg some (if_pos hl)

theorem decodeBuffer_row {r : Row} (hfit : start + (rest.length + 1) ≤ 65536) (h : lookup op = some r)
    (hl : r.size ≤ rest.length + 1) :
    decodeBuffer (op :: rest) start =
      (decodeBuffer ((op :: rest).drop r.size) (start + r.size)).map
        (DecodedItem.record (mkRecord (BitVec.ofNat 16 start) r ((op :: rest).take r.size)) :: ·) := by
  have hpos := r.size_pos
  have hlen : ((op :: rest).drop r.size).length = rest.length + 1 - r.size := by rw [List.length_drop, List.length_cons]
  have hfuel := decodeLoop_fuel (fuel' := rest.length) (a := start + r.size) (Nat.le_refl _)
    (show ((op :: rest).drop r.size).length ≤ rest.length by omega)
  rw [decodeBuffer_some hfit, decodeBuffer_some (by omega), List.length_cons, decodeLoop, h, Option.map_some, hfuel]
  exact congrArg some (if_neg (Nat.not_lt.mpr hl))

/-- A defined opcode whose bytes are all there: the record of the instruction they decode to, and on behind it. -/
theorem decodeBuffer_instr {d : Descriptor} (hfit : start + (rest.length + 1) ≤ 65536) (hd : opcodeTable op = some d)
    (hl : d.size ≤ rest.length + 1) :
    ∃ i, decode (op :: rest) = .instr i ((op :: rest).drop d.size) ∧ encode i = (op :: rest).take d.size ∧
      decodeBuffer (op :: rest) start =
        (decodeBuffer ((op :: rest).drop d.size) (start + d.size)).map (DecodedItem.record (Claims.recordOf i start) :: ·) := by
  obtain ⟨r, hr, hrd⟩ := opcodeTable_some hd
  have hsize : r.size = d.size := congrArg Descriptor.size hrd
  have hdec := decode_instr (rest := rest) hr (by omega)
  generalize r.make.build (rest.getD 0 0) (rest.getD 1 0) = i at hdec
  have hid : d = i.descriptor := Option.some.inj (hd.symm.trans (decode_instr_row hdec).2.1)
  have henc : encode i = (op :: rest).take d.size := by rw [encode_of_decode hdec, hid]; rfl
  refine ⟨i, ?_, henc, ?_⟩
  · rw [hdec, ← hsize, List.drop_cons r.size_pos]
  · rw [decodeBuffer_row hfit hr (by omega), hsize, ← henc, mkRecord_encode (hrd.trans hid) (by omega)]

end Turn

/-- A fetched byte without a row is raised (spec/30_encoding.md R90). -/
theorem step_of_undefined {s : State} (hr : Ready s) (h : lookup (s.byteAt s.pc) = none) :
    step s = .next (Claims.fatal s (.unsupportedOpcode (s.byteAt s.pc) s.pc)) := by
  obtain ⟨hrun, hbudget⟩ := hr
  exact step_of_fetch_raised hrun (fetch_unsupported hbudget (inExecSet_of_none h))

end Sys2Proof
end

section
/-! PROOFS. The statements about the Opcode Table and the Decoder (spec/30_encoding.md): O4, O7, O8, O9, O3, O5, O6. -/

namespace Sys2Proof.Proofs

open Sys2Proof.Machine

/-- Settles O4: the instruction has the bytes it is decoded from, and its form reads them by its mode. -/
theorem operandAssembly : Obligations.OperandAssembly := by
  intro op b1 b2 rest tail i h
  obtain ⟨-, -, -, htail⟩ := decode_instr_row h
  have hle := i.size_le
  have hbytes : i.form.bytes = [b1, b2].take (i.size - 1) := by
    rw [decode_form_bytes h, ← List.take_append_of_le_length (l₂ := rest) (show i.size - 1 ≤ [b1, b2].length by simp; omega)]
    rfl
  obtain ⟨himm, hzp, hzpX, hzpY, hindX, hindY, hrel⟩ := form_of_byte hbytes
  refine ⟨htail, himm, hzp, hzpX, hzpY, hindX, hindY, fun hm => ?_, fun hm => ⟨hrel hm, rfl, fun _ => rfl⟩⟩
  obtain ⟨w, hw, hform⟩ := form_of_word hbytes hm
  obtain ⟨hsum, hlo, hhi⟩ := word_of_bytes hw
  exact ⟨w, hsum, hlo, hhi, hform⟩

/-- Settles O7: a byte without a row is a placeholder to the Decoder's loop and is raised by the fetch. -/
theorem undefinedBytes : Obligations.UndefinedBytes := by
  intro op
  refine ⟨opcodeTable_none.trans lookup_eq_none_iff_undefined, fun hu => ⟨fun a ha => ?_, ?_⟩⟩
  · rw [decodeBuffer_undefined ha (lookup_undefinedBytes op hu), decodeBuffer_nil ha]
    rfl
  · rintro s hr rfl
    exact step_of_undefined hr (lookup_undefinedBytes _ hu)

/-- Settles O8: the turn of the Decoder's loop on the bytes of one instruction, behind which nothing is left. -/
theorem decoderRecords : Obligations.DecoderRecords := by
  intro i a ha
  have hlen := encode_length i
  refine ⟨?_, hlen, opcodeTable_opcode i⟩
  have hsize : i.descriptor.size = (encode i).length := hlen.symm
  obtain ⟨j, hdec, -, hbuf⟩ :=
    decodeBuffer_instr (rest := i.form.bytes) (start := a) (by rw [← hlen] at ha; exact ha) (opcodeTable_opcode i)
      (Nat.le_of_eq hsize)
  rw [← encode] at hdec hbuf
  rw [decode_encode] at hdec
  injection hdec with hj
  rw [hbuf, hsize, List.drop_length, decodeBuffer_nil (by omega), hj]
  rfl

/-- Settles O9, a turn of the loop by each of its cases. -/
theorem decoderLoop : Obligations.DecoderLoop := by
  refine ⟨fun _ _ => decodeBuffer_eq_none, fun _ => decodeBuffer_nil, fun op rest start hfit => ⟨fun hn => ?_, fun d hd hl => ?_,
    fun _ => decodeBuffer_instr hfit⟩, by decide, by decide⟩
  · exact decodeBuffer_undefined hfit (opcodeTable_none.mp hn)
  · obtain ⟨r, hr, rfl⟩ := opcodeTable_some hd
    exact decodeBuffer_truncated hfit hr hl

/-- Settles O3 by evaluating the Decoder on the words the source shows. -/
theorem shownWords : Obligations.ShownWords := by
  refine ⟨?_, ?_, ?_, ?_⟩ <;> decide

/-- Settles O5: a row's size is its tag's, and the rows rise by their byte. -/
theorem descriptorSizes : Obligations.DescriptorSizes := by
  refine ⟨fun op d hd => ?_, allRows_byte_nodup, fun op => ?_⟩
  · obtain ⟨r, -, rfl⟩ := opcodeTable_some hd
    exact r.mode.size_cases
  · rw [opcodeTable, Option.isSome_map, lookup_isSome]

/-- Settles O6: the four lists by filtering the table, EXEC_SET from the three of them. -/
theorem execSetByTier : Obligations.ExecSetByTier := by
  have hs : (allRows.filter fun r => r.tier = .s).map Row.byte = Claims.tierS := by decide
  have hc : (allRows.filter fun r => r.tier = .c).map Row.byte = Claims.tierC := by decide +kernel
  have hg : (allRows.filter fun r => r.tier = .g).map Row.byte = Claims.tierG := by decide +kernel
  refine ⟨hs, hc, hg, by decide, rfl, fun op => ?_, by decide +kernel, rfl⟩
  rw [Bool.eq_iff_iff, List.contains_iff_mem, inExecSet_iff, ← hs, ← hc, ← hg]
  simp only [List.mem_append, List.mem_map, List.mem_filter, decide_eq_true_eq, Row.executed_iff, and_or_left, or_and_right,
    exists_or, and_assoc, or_assoc]

end Sys2Proof.Proofs
end

section
/-! PROOFS. What the statements about single instructions share: a mnemonic's encoding table is its rows and nothing more, and the
outcomes common to all instructions that are executed and go on at the next address. -/

namespace Sys2Proof

open Sys2Proof.Machine

/-! ### The encoding table of a mnemonic -/

theorem mem_rowsFor {m : Mnemonic} {e : Byte × Mode × Nat × Tier} :
    e ∈ Claims.rowsFor m ↔ ∃ r ∈ allRows, r.mnemonic = m ∧ (r.byte, r.mode, r.size, r.tier) = e := by
  simp [Claims.rowsFor, and_assoc]

/-- Every instruction is of some row (spec/30_encoding.md R79). -/
theorem exists_row (i : Instr) : ∃ r ∈ allRows, r.byte = i.opcode ∧ r.descriptor = i.descriptor := by
  obtain ⟨r, hr, hd⟩ := opcodeTable_some (opcodeTable_opcode i)
  obtain ⟨hm, hb⟩ := lookup_some hr
  exact ⟨r, hm, hb, hd⟩

/-- The rows alone decide an encoding table: each instruction is of a row, and each row makes an instruction. -/
theorem encodings_of_rows {m : Mnemonic} {table : List (Byte × Mode × Nat × Tier)} (h : Claims.rowsFor m = table) :
    Claims.Encodings m table := by
  subst h
  refine ⟨rfl, fun i hi => ?_, fun e he => ?_⟩
  · obtain ⟨r, hr, hb, hd⟩ := exists_row i
    obtain ⟨hm, hsize, hmode⟩ := Descriptor.mk.inj hd
    exact ⟨r.tier, mem_rowsFor.2 ⟨r, hr, hm.trans hi, by rw [hb, hsize, hmode]⟩⟩
  · obtain ⟨r, hr, hm, rfl⟩ := mem_rowsFor.1 he
    obtain ⟨hop, hmn, hmode⟩ := allRows_make r hr 0 0
    exact ⟨_, hmn.trans hm, hop, hmode⟩

/-! ### The mnemonics that are executed in line -/

/-- Every instruction of the mnemonic is executed (spec/45_decoded_not_executed.md R180) and goes on at the address after it
(spec/10_state.md R25). -/
abbrev Mnemonic.InLine (m : Mnemonic) : Prop :=
  m ∉ [.bit, .brk, .rti, .php, .plp, .bvc, .bvs, .clv, .cld, .sed, .cli, .sei] ∧
  m ∉ [.bcc, .bcs, .beq, .bne, .bmi, .bpl, .jmp, .jsr, .rts]

theorem allRows_executed : ∀ r ∈ allRows, r.mnemonic.InLine → r.executed = true := by
  have h : allRows.all (fun r => decide (r.mnemonic.InLine → r.executed = true)) = true := by decide +kernel
  simpa only [List.all_eq_true, decide_eq_true_eq] using h

theorem inExecSet_of_inLine {i : Instr} (h : i.mnemonic.InLine) : inExecSet i.opcode = true := by
  obtain ⟨r, hr, hb, hd⟩ := exists_row i
  have hm : r.mnemonic = i.mnemonic := congrArg Descriptor.mnemonic hd
  exact inExecSet_iff.2 ⟨r, hr, allRows_executed r hr (hm ▸ h), hb⟩

end Sys2Proof

namespace Sys2Proof.Machine

/-! ### Outcomes common to all -/

theorem size_of_implied {i : Instr} (hf : i.form = .implied) : i.size = 1 := by rw [Instr.size, Instr.mode, hf]; rfl

/-- The first check of a shape that has operand bytes, by the size of its instruction. -/
theorem withOperandBytes_violation {i : Instr} {s : State} {size : Nat} {k : Result} (hz : i.size = size)
    (hm : 65536 < s.pc.toNat + i.size) : withOperandBytes size s k = .next (Claims.violation s 65536) := by
  subst hz
  exact withOperandBytes_missing i.size_pos i.size_le hm

/-- An executed instruction with an operand byte past 0xFFFF raises, and commits nothing (spec/60_exceptions.md R207 (a)); an
instruction of one byte has no operand byte. -/
theorem exec_missing {i : Instr} {s : State} (hx : inExecSet i.opcode = true) (hm : 65536 < s.pc.toNat + i.size) :
    exec i s = .next (Claims.violation s 65536) := by
  have h₁ : i.size ≠ 1 := by have := s.pc.isLt; omega
  have h := exec_does i s
  generalize exec i s = r at h
  cases h with
  | load _ src _ hf => exact withOperandBytes_violation (size_of_source hf) hm
  | store _ ref _ hf => exact withOperandBytes_violation (size_of_mem hf) hm
  | accumulate _ src _ hf => exact withOperandBytes_violation (size_of_source hf) hm
  | compare _ src _ hf => exact withOperandBytes_violation (size_of_source hf) hm
  | modify _ p _ hf => exact withOperandBytes_violation (size_of_place hf) hm
  | branch _ b _ hf => exact withOperandBytes_violation (size_of_rel hf) hm
  | jmp w hi => subst hi; exact withOperandBytes_violation rfl hm
  | jsr w hi => subst hi; exact withOperandBytes_violation rfl hm
  | move _ _ _ hf => exact absurd (size_of_implied hf) h₁
  | unsupported hd =>
    rw [inExecSet_tierD _ (DecodedOnlyInstr.opcode_tierD hd)] at hx
    cases hx
  | _ => rename_i hi; subst hi; exact absurd rfl h₁

/-- The three checks in their order, by what each of them raises. -/
theorem commonOutcomes_of_inLine {i : Instr} (h : i.mnemonic.InLine) : Claims.CommonOutcomes i := fun _ =>
  have hx := inExecSet_of_inLine h
  ⟨exec_missing hx, fun _ => exec_outside, exec_noNext hx (redirects_of_mnemonic h.2)⟩

/-- At 0xFFFF an instruction of one byte has no next address. -/
theorem failsAtTop_of_inLine {i : Instr} (h : i.mnemonic.InLine) (hf : i.form = .implied) : Claims.FailsAtTop i := by
  intro s hpc
  have hz := size_of_implied hf
  have hmem : ∀ r, i.form = .mem r → effectiveAddress r s ≤ 65535 := fun r hr => by cases hf.symm.trans hr
  have he := exec_noNext (inExecSet_of_inLine h) (redirects_of_mnemonic h.2) hmem (by rw [hpc, hz]; rfl)
  rwa [Claims.violation, hz, hpc] at he

/-! ### One byte -/

theorem canAdvance_one {s : State} (h : s.pc ≠ 0xFFFF) : CanAdvance 1 s := by
  have := bytesInSpace_two h
  omega

end Sys2Proof.Machine
end

section
/-! PROOFS. The next state of a load, of a store and of a move, with the record written out as spec/40_load_store_transfer.md names
its fields. -/

namespace Sys2Proof.Machine

theorem exec_load {i : Instr} {s : State} {r : Reg} {src : Source} {m : Byte}
    (hr : i.mnemonic = .lda ∧ r = .a ∨ i.mnemonic = .ldx ∧ r = .x ∨ i.mnemonic = .ldy ∧ r = .y)
    (hf : i.form.source? = some src) (hm : operandValue src s = some m) (hc : CanAdvance i.size s) :
    exec i s = .next { s.setReg r m with
      n := m.getLsbD 7, z := decide (m = 0), pc := Claims.nextPc i s, steps := s.steps + 1 } := by
  have hz := size_of_source hf
  rw [(Does.load r src hr hf).exec_eq, loadReg_next (hz ▸ hc) hm, ← hz, State.setNZ_eq, advanced, State.steps_setReg]

theorem exec_store {i : Instr} {s : State} {v : Byte} {r : MemRef}
    (hv : i.mnemonic = .sta ∧ v = s.a ∨ i.mnemonic = .stx ∧ v = s.x ∨ i.mnemonic = .sty ∧ v = s.y)
    (hf : i.form = .mem r) (he : effectiveAddress r s ≤ 65535) (hc : CanAdvance i.size s) :
    exec i s = .next { s with
      mem := s.mem.write (effectiveAddress r s) v, pc := Claims.nextPc i s, steps := s.steps + 1 } := by
  have hz := size_of_mem hf
  rw [(Does.store v r hv hf).exec_eq, storeByte_next (hz ▸ hc) he, ← hz]

theorem exec_move {i : Instr} {s : State} {r : Reg} {v : Byte} (he : exec i s = moveTo r v s) (h : s.pc ≠ 0xFFFF) :
    exec i s = .next { s.setReg r v with
      n := v.getLsbD 7, z := decide (v = 0), pc := s.pc + 1, steps := s.steps + 1 } := by
  rw [he, moveTo_next (canAdvance_one h), State.setNZ_eq, advanced, State.steps_setReg]
  rfl

end Sys2Proof.Machine
end

section
/-! PROOFS. The statements about loads, stores and transfers (spec/40_load_store_transfer.md): O44, O45, O46. -/

namespace Sys2Proof.Proofs

open Sys2Proof.Machine

/-- Settles O44: the three encodings by their rows, the next state by `exec_load`, the outcomes because a load is executed in line. -/
theorem loads : Obligations.Loads := by
  have hline : ∀ m ∈ [Mnemonic.lda, .ldx, .ldy], m.InLine := by decide
  refine ⟨encodings_of_rows (by decide), encodings_of_rows (by decide), encodings_of_rows (by decide),
    fun i s src m hf hm hc => ⟨fun h => ?_, fun h => ?_, fun h => ?_⟩,
    fun i hi => ⟨?_, commonOutcomes_of_inLine (hline _ hi)⟩⟩
  · exact exec_load (.inl ⟨h, rfl⟩) hf hm hc
  · exact exec_load (.inr (.inl ⟨h, rfl⟩)) hf hm hc
  · exact exec_load (.inr (.inr ⟨h, rfl⟩)) hf hm hc
  · simp only [List.mem_cons, List.not_mem_nil, or_false] at hi
    rcases hi with h | h | h
    · exact (exec_lda h).imp fun _ => And.left
    · exact (exec_ldx h).imp fun _ => And.left
    · exact (exec_ldy h).imp fun _ => And.left

/-- Settles O45, as O44 with `exec_store`. -/
theorem stores : Obligations.Stores := by
  have hline : ∀ m ∈ [Mnemonic.sta, .stx, .sty], m.InLine := by decide
  refine ⟨encodings_of_rows (by decide), encodings_of_rows (by decide), encodings_of_rows (by decide),
    fun i s r hf he hc => ⟨fun h => ?_, fun h => ?_, fun h => ?_⟩,
    fun i hi => ⟨?_, commonOutcomes_of_inLine (hline _ hi)⟩⟩
  · exact exec_store (.inl ⟨h, rfl⟩) hf he hc
  · exact exec_store (.inr (.inl ⟨h, rfl⟩)) hf he hc
  · exact exec_store (.inr (.inr ⟨h, rfl⟩)) hf he hc
  · simp only [List.mem_cons, List.not_mem_nil, or_false] at hi
    rcases hi with h | h | h
    · exact (exec_sta h).imp fun _ => And.left
    · exact (exec_stx h).imp fun _ => And.left
    · exact (exec_sty h).imp fun _ => And.left

/-- Settles O46: five transfers are moves, by `exec_move`, TXS is the advance of a state with another `SP`. -/
theorem transfers : Obligations.Transfers := by
  have hline : ∀ i ∈ [Instr.tax, .tay, .txa, .tya, .tsx, .txs], i.mnemonic.InLine ∧ i.form = .implied := by decide
  refine ⟨encodings_of_rows (by decide), encodings_of_rows (by decide), encodings_of_rows (by decide),
    encodings_of_rows (by decide), encodings_of_rows (by decide), encodings_of_rows (by decide),
    fun s h => ⟨?_, ?_, ?_, ?_, ?_, ?_⟩,
    fun i hi => failsAtTop_of_inLine (hline i hi).1 (hline i hi).2⟩
  · exact exec_move (r := .x) (v := s.a) rfl h
  · exact exec_move (r := .y) (v := s.a) rfl h
  · exact exec_move (r := .a) (v := s.x) rfl h
  · exact exec_move (r := .a) (v := s.y) rfl h
  · exact exec_move (r := .x) (v := s.sp) rfl h
  · exact (Does.txs rfl).exec_eq.trans (finish_in (canAdvance_one h))

end Sys2Proof.Proofs
end

section
/-! PROOFS. The next state of an operation on the accumulator, of a comparison and of a read-modify-write in memory, with the record
written out as spec/41_arithmetic_compare.md and spec/42_logic_shift_rotate.md name its fields, and the sums and differences as
integers. -/

namespace Sys2Proof.Machine

/-! ### Integers narrowed to a byte -/

theorem byte_ofNat_eq_zero {t : Nat} : (BitVec.ofNat 8 t : Byte) = 0 ↔ t % 256 = 0 := by
  rw [BitVec.toNat_eq, BitVec.toNat_ofNat]
  rfl

theorem byte_ofInt_eq_zero {t : Int} : (BitVec.ofInt 8 t : Byte) = 0 ↔ t % 256 = 0 := by
  rw [BitVec.toNat_eq, BitVec.toNat_ofInt]
  change (t % 256).toNat = 0 ↔ _
  omega

/-- The sum of ADC is at most 511 (spec/41_arithmetic_compare.md R120). -/
theorem addWithCarry_sum_le (a m : Byte) (c : Bool) : a.toNat + m.toNat + c.toNat ≤ 511 := by
  have := a.isLt
  have := m.isLt
  have := c.toNat_le
  omega

theorem addWithCarry_eq {a m : Byte} {c : Bool} {t : Nat} (ht : t = a.toNat + m.toNat + c.toNat) :
    addWithCarry a m c = (BitVec.ofNat 8 t, decide (255 < t)) := by
  subst ht
  refine Prod.ext (BitVec.eq_of_toNat_eq ?_) rfl
  simp [addWithCarry]

theorem subWithBorrow_eq {a m : Byte} {c : Bool} {t : Int} (ht : t = (a.toNat : Int) - m.toNat - (1 - c.toNat)) :
    subWithBorrow a m c = (BitVec.ofInt 8 t, decide (0 ≤ t)) := by
  subst ht
  refine Prod.ext (BitVec.eq_of_toNat_eq ?_) rfl
  simp only [subWithBorrow, BitVec.toNat_ofInt, BitVec.toNat_ofNat]
  omega

/-- The difference of SBC, its range, and the sum with the complement that has its byte and its carry
(spec/41_arithmetic_compare.md R121). -/
theorem subWithBorrow_complement {a m : Byte} {c : Bool} {t : Int} {u : Nat}
    (ht : t = (a.toNat : Int) - m.toNat - (1 - c.toNat)) (hu : u = a.toNat + (255 - m.toNat) + c.toNat) :
    -256 ≤ t ∧ t ≤ 255 ∧ (0 ≤ t ↔ 255 < u) ∧ BitVec.ofInt 8 t = BitVec.ofNat 8 u := by
  have := a.isLt
  have := m.isLt
  have := c.toNat_le
  have htu : t = (u : Int) - 256 := by omega
  refine ⟨by omega, by omega, by omega, BitVec.eq_of_toNat_eq ?_⟩
  rw [BitVec.toNat_ofInt, BitVec.toNat_ofNat]
  omega

/-! ### The shapes, with the record written out -/

theorem exec_accumulate {i : Instr} {s : State} {op : Byte → Byte → Bool → Byte × Bool} {src : Source} {m v : Byte} {c : Bool}
    (hop : i.mnemonic = .adc ∧ op = addWithCarry ∨ i.mnemonic = .sbc ∧ op = subWithBorrow ∨ i.mnemonic = .and ∧ op = bitAnd ∨
      i.mnemonic = .ora ∧ op = bitOr ∨ i.mnemonic = .eor ∧ op = bitXor)
    (hf : i.form.source? = some src) (hm : operandValue src s = some m) (hc : CanAdvance i.size s)
    (hv : op s.a m s.c = (v, c)) :
    exec i s = .next { s with
      a := v, c := c, n := v.getLsbD 7, z := decide (v = 0), pc := Claims.nextPc i s, steps := s.steps + 1 } := by
  have hz := size_of_source hf
  rw [(Does.accumulate op src hop hf).exec_eq, accumulate_next (hz ▸ hc) hm, hv, ← hz, State.setNZ_eq]
  rfl

theorem exec_compare {i : Instr} {s : State} {r : Reg} {src : Source} {m : Byte}
    (hr : i.mnemonic = .cmp ∧ r = .a ∨ i.mnemonic = .cpx ∧ r = .x ∨ i.mnemonic = .cpy ∧ r = .y)
    (hf : i.form.source? = some src) (hm : operandValue src s = some m) (hc : CanAdvance i.size s) :
    exec i s = .next { s with
      c := decide (m.toNat ≤ (s.getReg r).toNat), z := decide (s.getReg r = m), n := (s.getReg r - m).getLsbD 7
      pc := Claims.nextPc i s, steps := s.steps + 1 } := by
  have hz := size_of_source hf
  have hzero : decide (s.getReg r - m = 0) = decide (s.getReg r = m) := decide_eq_decide.2 sub_eq_zero
  rw [(Does.compare r src hr hf).exec_eq, compareReg_next (hz ▸ hc) hm, difference_fst, ← hz, State.setNZ_eq, hzero]
  rfl

theorem exec_modifyMem {i : Instr} {s : State} {op : Byte → Bool → Byte × Bool} {r : MemRef} {v : Byte} {c : Bool}
    (hop : i.mnemonic = .asl ∧ op = shiftLeft ∨ i.mnemonic = .lsr ∧ op = shiftRight ∨ i.mnemonic = .rol ∧ op = rotateLeft ∨
      i.mnemonic = .ror ∧ op = rotateRight ∨ i.mnemonic = .inc ∧ op = (fun v c => (increment v, c)) ∨
      i.mnemonic = .dec ∧ op = (fun v c => (decrement v, c)))
    (hf : i.form = .mem r) (he : effectiveAddress r s ≤ 65535) (hc : CanAdvance i.size s)
    (hv : op (s.mem.read (effectiveAddress r s)) s.c = (v, c)) :
    exec i s = .next { s with
      mem := s.mem.write (effectiveAddress r s) v, c := c, n := v.getLsbD 7, z := decide (v = 0)
      pc := Claims.nextPc i s, steps := s.steps + 1 } := by
  have hz := size_of_mem hf
  rw [(Does.modify op (.mem r) hop (form_of_place_mem.2 hf)).exec_eq, modifyPlace_mem_next (hz ▸ hc) he, ← hz, modifiedMem, hv,
    State.setNZ_eq]
  rfl

end Sys2Proof.Machine
end

section
/-! PROOFS. The statements about arithmetic and comparison (spec/41_arithmetic_compare.md): O47, O48, O49, O50, O51. -/

namespace Sys2Proof.Proofs

open Sys2Proof.Machine

/-- Settles O47: the encodings by their rows, the next state by `exec_accumulate` on the integer sum, the outcomes because ADC is
executed in line. -/
theorem addWithCarry : Obligations.AddWithCarry := by
  have hline : Mnemonic.adc.InLine := by decide
  refine ⟨encodings_of_rows (by decide), fun i s src m t hi hf hm hc ht => ⟨ht ▸ addWithCarry_sum_le s.a m s.c, ?_⟩,
    fun i hi => ⟨(exec_adc hi).imp fun _ => And.left, commonOutcomes_of_inLine (hi ▸ hline)⟩⟩
  rw [exec_accumulate (.inl ⟨hi, rfl⟩) hf hm hc (addWithCarry_eq ht), decide_eq_decide.2 byte_ofNat_eq_zero]

/-- Settles O48, as O47 on the integer difference. -/
theorem subtractWithBorrow : Obligations.SubtractWithBorrow := by
  have hline : Mnemonic.sbc.InLine := by decide
  refine ⟨encodings_of_rows (by decide), fun i s src m t u hi hf hm hc ht hu => ?_,
    fun i hi => ⟨(exec_sbc hi).imp fun _ => And.left, commonOutcomes_of_inLine (hi ▸ hline)⟩⟩
  obtain ⟨hlo, hhi, hcarry, hbyte⟩ := subWithBorrow_complement ht hu
  refine ⟨hlo, hhi, hcarry, hbyte, ?_⟩
  rw [exec_accumulate (.inr (.inl ⟨hi, rfl⟩)) hf hm hc (subWithBorrow_eq ht), decide_eq_decide.2 byte_ofInt_eq_zero]

/-- Settles O49, by `exec_compare` for each of the three registers. -/
theorem compares : Obligations.Compares := by
  have hline : ∀ m ∈ [Mnemonic.cmp, .cpx, .cpy], m.InLine := by decide
  refine ⟨encodings_of_rows (by decide), encodings_of_rows (by decide), encodings_of_rows (by decide),
    fun i s src m hf hm hc => ⟨fun h => ?_, fun h => ?_, fun h => ?_⟩,
    fun i hi => ⟨?_, commonOutcomes_of_inLine (hline _ hi)⟩⟩
  · exact exec_compare (r := .a) (.inl ⟨h, rfl⟩) hf hm hc
  · exact exec_compare (r := .x) (.inr (.inl ⟨h, rfl⟩)) hf hm hc
  · exact exec_compare (r := .y) (.inr (.inr ⟨h, rfl⟩)) hf hm hc
  · simp only [List.mem_cons, List.not_mem_nil, or_false] at hi
    rcases hi with h | h | h
    · exact (exec_cmp h).imp fun _ => And.left
    · exact (exec_cpx h).imp fun _ => And.left
    · exact (exec_cpy h).imp fun _ => And.left

/-- Settles O50: a read-modify-write whose operation passes the old carry on. -/
theorem memoryIncrementDecrement : Obligations.MemoryIncrementDecrement := by
  have hline : ∀ m ∈ [Mnemonic.inc, .dec], m.InLine := by decide
  refine ⟨encodings_of_rows (by decide), encodings_of_rows (by decide), fun i s r v hf he hc hv => ?_,
    fun i hi => ⟨?_, commonOutcomes_of_inLine (hline _ hi)⟩⟩
  · rcases hv with ⟨h, rfl⟩ | ⟨h, rfl⟩
    · exact exec_modifyMem (c := s.c) (.inr (.inr (.inr (.inr (.inl ⟨h, rfl⟩))))) hf he hc
        (congrArg (·, s.c) (increment_eq _))
    · exact exec_modifyMem (c := s.c) (.inr (.inr (.inr (.inr (.inr ⟨h, rfl⟩))))) hf he hc
        (congrArg (·, s.c) (decrement_eq _))
  · simp only [List.mem_cons, List.not_mem_nil, or_false] at hi
    rcases hi with h | h
    · exact (exec_inc h).imp fun _ => And.left
    · exact (exec_dec h).imp fun _ => And.left

/-- Settles O51: each is a move of the register's own value plus or minus one, by `exec_move`. -/
theorem registerIncrementDecrement : Obligations.RegisterIncrementDecrement := by
  have hline : ∀ i ∈ [Instr.inx, .iny, .dex, .dey], i.mnemonic.InLine ∧ i.form = .implied := by decide
  refine ⟨encodings_of_rows (by decide), encodings_of_rows (by decide), encodings_of_rows (by decide),
    encodings_of_rows (by decide), fun s h => ⟨?_, ?_, ?_, ?_⟩, fun i hi => failsAtTop_of_inLine (hline i hi).1 (hline i hi).2⟩
  · rw [← increment_eq]
    exact exec_move (r := .x) (v := increment s.x) rfl h
  · rw [← increment_eq]
    exact exec_move (r := .y) (v := increment s.y) rfl h
  · rw [← decrement_eq]
    exact exec_move (r := .x) (v := decrement s.x) rfl h
  · rw [← decrement_eq]
    exact exec_move (r := .y) (v := decrement s.y) rfl h

end Sys2Proof.Proofs
end

section
/-! PROOFS. The rotations as moves around nine bits, the read-modify-write of a place as the statements give its byte, and the integer
laws of the shifts and rotations (spec/42_logic_shift_rotate.md R143 to R146). -/

namespace Sys2Proof.Machine

/-! ### The ring of nine bits -/

/-- Bit `k` of a byte and the carry, the carry above the byte; the index wraps (spec/42_logic_shift_rotate.md R145). -/
def ringBit (p : Byte × Bool) (k : Fin 9) : Bool := (BitVec.cons p.2 p.1).getLsbD k

theorem ringBit_injective {p q : Byte × Bool} (h : ∀ k, ringBit p k = ringBit q k) : p = q := by
  have hcons : BitVec.cons p.2 p.1 = BitVec.cons q.2 q.1 := BitVec.eq_of_getLsbD_eq fun k hk => h ⟨k, hk⟩
  refine Prod.ext ?_ ?_
  · simpa using congrArg (BitVec.setWidth 8) hcons
  · simpa using congrArg BitVec.msb hcons

/-- A rotation to the left moves every bit of the ring one place up, the carry to bit 0. -/
theorem ringBit_rolPair (p : Byte × Bool) (k : Fin 9) : ringBit (Claims.rolPair p) (k + 1) = ringBit p k := by
  obtain ⟨v, c⟩ := p
  cases c <;> fin_cases k <;> simp [ringBit, Claims.rolPair, BitVec.getElem_cons]

/-- A rotation to the right moves every bit of the ring one place down, bit 0 to the carry. -/
theorem ringBit_rorPair (p : Byte × Bool) (k : Fin 9) : ringBit (Claims.rorPair p) k = ringBit p (k + 1) := by
  obtain ⟨v, c⟩ := p
  cases c <;> fin_cases k <;> simp [ringBit, Claims.rorPair, BitVec.getElem_cons]

open Fin.NatCast in
theorem ringBit_rolPair_iterate (n : Nat) (p : Byte × Bool) (k : Fin 9) :
    ringBit (Claims.rolPair^[n] p) (k + n) = ringBit p k := by
  induction n with
  | zero => simp
  | succ n ih => rw [Function.iterate_succ_apply', Nat.cast_succ, ← add_assoc, ringBit_rolPair, ih]

theorem rolPair_nine (p : Byte × Bool) : Claims.rolPair^[9] p = p :=
  ringBit_injective fun k => by simpa using ringBit_rolPair_iterate 9 p k

theorem rorPair_rolPair : Function.LeftInverse Claims.rorPair Claims.rolPair := fun p =>
  ringBit_injective fun k => by rw [ringBit_rorPair, ringBit_rolPair]

theorem rorPair_nine (p : Byte × Bool) : Claims.rorPair^[9] p = p := by
  have h := rorPair_rolPair.iterate 9 p
  rwa [rolPair_nine] at h

/-! ### The integer laws -/

theorem rolPair_eq_rotateLeft (v : Byte) (c : Bool) : Claims.rolPair (v, c) = rotateLeft v c := (rotateLeft_eq v c).symm

theorem rorPair_eq_rotateRight (v : Byte) (c : Bool) : Claims.rorPair (v, c) = rotateRight v c := (rotateRight_eq v c).symm

theorem shift_toNat (v : Byte) :
    (v <<< 1).toNat = v.toNat * 2 % 256 ∧ (v >>> 1).toNat = v.toNat / 2 ∧ (v >>> 1).getLsbD 7 = false := by
  refine ⟨?_, ?_, by simp⟩
  · rw [BitVec.toNat_shiftLeft, Nat.shiftLeft_eq, pow_one]
  · rw [BitVec.toNat_ushiftRight, Nat.shiftRight_eq_div_pow, pow_one]

/-- No carry leaves the sum of ROL: the doubled byte is even. -/
theorem rolPair_toNat (v : Byte) (c : Bool) : (Claims.rolPair (v, c)).1.toNat = v.toNat * 2 % 256 + c.toNat := by
  have hc := c.toNat_le
  rw [rolPair_eq_rotateLeft, rotateLeft, BitVec.toNat_ofNat]
  omega

/-- No carry leaves the sum of ROR: the halved byte is below 128. -/
theorem rorPair_toNat (v : Byte) (c : Bool) : (Claims.rorPair (v, c)).1.toNat = v.toNat / 2 + 128 * c.toNat := by
  have hv := v.isLt
  have hc := c.toNat_le
  rw [rorPair_eq_rotateRight, rotateRight, BitVec.toNat_ofNat]
  omega

/-! ### The next state -/

theorem exec_modifyAcc {i : Instr} {s : State} {op : Byte → Bool → Byte × Bool} {v : Byte} {c : Bool}
    (hi : exec i s = modifyPlace op .acc s) (h : s.pc ≠ 0xFFFF) (hv : op s.a s.c = (v, c)) :
    exec i s = .next { s with
      a := v, c := c, n := v.getLsbD 7, z := decide (v = 0), pc := s.pc + 1, steps := s.steps + 1 } := by
  rw [hi, modifyPlace_acc_next (canAdvance_one h), modifiedAcc, hv, State.setNZ_eq]
  rfl

theorem memByte_some {i : Instr} {s : State} {ea : Nat} {v : Byte} (h : Claims.memByte i s = some (ea, v)) :
    ∃ r, i.form = .mem r ∧ effectiveAddress r s ≤ 65535 ∧ effectiveAddress r s = ea ∧ s.mem.read ea = v := by
  unfold Claims.memByte at h
  cases hf : i.form with
  | mem r =>
    simp only [hf, OperandForm.memRef?] at h
    split at h
    · cases h
      exact ⟨r, rfl, ‹_›, rfl, rfl⟩
    · cases h
  | _ => simp [hf, OperandForm.memRef?] at h

/-- A shift or a rotation of the byte in memory that the statements name. -/
theorem exec_modifyMemByte {i : Instr} {s : State} {op : Byte → Bool → Byte × Bool} {ea : Nat} {v r : Byte} {c : Bool}
    (hop : i.mnemonic = .asl ∧ op = shiftLeft ∨ i.mnemonic = .lsr ∧ op = shiftRight ∨ i.mnemonic = .rol ∧ op = rotateLeft ∨
      i.mnemonic = .ror ∧ op = rotateRight)
    (hm : Claims.memByte i s = some (ea, v)) (hc : CanAdvance i.size s) (hv : op v s.c = (r, c)) :
    exec i s = .next { s with
      mem := s.mem.write ea r, c := c, n := r.getLsbD 7, z := decide (r = 0)
      pc := Claims.nextPc i s, steps := s.steps + 1 } := by
  obtain ⟨ref, hf, he, rfl, rfl⟩ := memByte_some hm
  exact exec_modifyMem (hop.imp_right (Or.imp_right (Or.imp_right .inl))) hf he hc hv

end Sys2Proof.Machine
end

section
/-! PROOFS. The statements about logic, shifts and rotations (spec/42_logic_shift_rotate.md): O52, O53, O54. -/

namespace Sys2Proof.Proofs

open Sys2Proof.Machine

/-- Settles O52: the encodings by their rows, the next state by `exec_accumulate` with an operation that passes the old carry on, the
outcomes because the three are executed in line. -/
theorem logicOperations : Obligations.LogicOperations := by
  have hline : ∀ m ∈ [Mnemonic.and, .ora, .eor], m.InLine := by decide
  refine ⟨encodings_of_rows (by decide), encodings_of_rows (by decide), encodings_of_rows (by decide),
    fun i s src m v hf hm hc hv => ?_, fun i hi => ⟨?_, commonOutcomes_of_inLine (hline _ hi)⟩⟩
  · rcases hv with ⟨h, rfl⟩ | ⟨h, rfl⟩ | ⟨h, rfl⟩
    · exact exec_accumulate (c := s.c) (.inr (.inr (.inl ⟨h, rfl⟩))) hf hm hc rfl
    · exact exec_accumulate (c := s.c) (.inr (.inr (.inr (.inl ⟨h, rfl⟩)))) hf hm hc rfl
    · exact exec_accumulate (c := s.c) (.inr (.inr (.inr (.inr ⟨h, rfl⟩)))) hf hm hc rfl
  · simp only [List.mem_cons, List.not_mem_nil, or_false] at hi
    rcases hi with h | h | h
    · exact (exec_and h).imp fun _ => And.left
    · exact (exec_ora h).imp fun _ => And.left
    · exact (exec_eor h).imp fun _ => And.left

/-- Settles O53: one read-modify-write each, of `A` by `exec_modifyAcc` and of memory by `exec_modifyMemByte`. -/
theorem shifts : Obligations.Shifts := by
  have hline : ∀ m ∈ [Mnemonic.asl, .lsr], m.InLine := by decide
  refine ⟨encodings_of_rows (by decide), encodings_of_rows (by decide), fun s i r c h hi => ?_,
    fun i s ea v r c hm hc hi => ?_, fun i hi => commonOutcomes_of_inLine (hline _ hi), shift_toNat⟩
  · rcases hi with ⟨rfl, rfl, rfl⟩ | ⟨rfl, rfl, rfl⟩
    · exact exec_modifyAcc (op := shiftLeft) rfl h (shiftLeft_eq s.a s.c)
    · exact exec_modifyAcc (op := shiftRight) rfl h (shiftRight_eq s.a s.c)
  · rcases hi with ⟨h, rfl, rfl⟩ | ⟨h, rfl, rfl⟩
    · exact exec_modifyMemByte (.inl ⟨h, rfl⟩) hm hc (shiftLeft_eq v s.c)
    · exact exec_modifyMemByte (.inr (.inl ⟨h, rfl⟩)) hm hc (shiftRight_eq v s.c)

/-- Settles O54, as O53; nine rotations restore the byte and the carry because each moves the ring of nine bits one place. -/
theorem rotates : Obligations.Rotates := by
  have hline : ∀ m ∈ [Mnemonic.rol, .ror], m.InLine := by decide
  refine ⟨encodings_of_rows (by decide), encodings_of_rows (by decide), fun s i p h hi => ?_,
    fun i s ea v p hm hc hi => ?_, fun i hi => commonOutcomes_of_inLine (hline _ hi),
    fun v c => ⟨rolPair_toNat v c, rfl, rorPair_toNat v c, rfl, rolPair_nine (v, c), rorPair_nine (v, c)⟩⟩
  · rcases hi with ⟨rfl, rfl⟩ | ⟨rfl, rfl⟩
    · exact exec_modifyAcc (op := rotateLeft) rfl h (rotateLeft_eq s.a s.c)
    · exact exec_modifyAcc (op := rotateRight) rfl h (rotateRight_eq s.a s.c)
  · rcases hi with ⟨h, rfl⟩ | ⟨h, rfl⟩
    · exact exec_modifyMemByte (.inr (.inr (.inl ⟨h, rfl⟩))) hm hc (rotateLeft_eq v s.c)
    · exact exec_modifyMemByte (.inr (.inr (.inr ⟨h, rfl⟩))) hm hc (rotateRight_eq v s.c)

end Sys2Proof.Proofs
end

section
/-! PROOFS. The branches by the checks they share, and the next state of the call and of the return with the record written out as
spec/43_branch_jump_call.md names its fields. -/

namespace Sys2Proof.Machine

/-! ### Branches -/

theorem branch_taken_target {b : Byte} {s : State} (hb : BytesInSpace 2 s)
    (ht : 0 ≤ Claims.target s b ∧ Claims.target s b ≤ 65535) :
    branch true b s = .next { s with pc := BitVec.ofInt 16 (Claims.target s b), steps := s.steps + 1 } := by
  have hpc : BitVec.ofNat 16 (Claims.target s b).toNat = BitVec.ofInt 16 (Claims.target s b) := by
    rw [← BitVec.ofInt_natCast, Int.toNat_of_nonneg ht.1]
  rw [Claims.target, ← branchTarget_eq] at ht hpc ⊢
  rw [branch_taken hb ht.1 ht.2, hpc]

/-- At 0xFFFE a branch has its operand byte, and no next address where it is not taken. -/
theorem branch_notTaken_atEnd {b : Byte} {s : State} (hp : s.pc.toNat + 2 = 65536) :
    branch false b s = .next (Claims.violation s (s.pc.toNat + 2)) := by
  rw [branch, withOperandBytes_in (by decide) (by decide) (by omega), if_neg (by decide), finish_out (by omega)]
  rfl

/-- The common rule of the branches, clause by clause: the operand byte, the target, the advance. -/
theorem branches_of_exec {i : Instr} {b : Byte} {taken : State → Bool} (hf : i.form = .rel b)
    (he : ∀ s, exec i s = branch (taken s) b s) : Claims.Branches i b taken := by
  refine ⟨hf, size_of_rel hf, fun s => ⟨fun hpc => ?_, fun hpc ht hin => ?_, fun hpc ht hout => ?_, fun hpc ht hpc' => ?_,
    fun ht hpc => ?_⟩⟩
  · have hp : s.pc.toNat = 65535 := congrArg BitVec.toNat hpc
    have ha : (s.pc.toNat : Int) + 1 = 65536 := by omega
    rw [he, ha]
    exact withOperandBytes_violation (size_of_rel hf) (by rw [size_of_rel hf]; omega)
  · rw [he, ht, branch_taken_target (bytesInSpace_two hpc) hin]
  · rw [Claims.target, ← branchTarget_eq] at hout ⊢
    rw [he, ht, branch_outside (bytesInSpace_two hpc) hout]
  · have hb := bytesInSpace_two hpc
    have hne : s.pc.toNat ≠ 65534 := fun e => hpc' (BitVec.eq_of_toNat_eq e)
    rw [he, ht]
    exact branch_notTaken (by omega)
  · have hp : s.pc.toNat = 65534 := congrArg BitVec.toNat hpc
    rw [he, ht, branch_notTaken_atEnd (by omega)]

/-! ### Call and return -/

/-- The address of a call's last byte has the two bytes that JSR pushes. -/
theorem hiByte_loByte_eq {w : Addr} {hi lo : Byte} (hhi : hi.toNat = w.toNat / 256) (hlo : lo.toNat = w.toNat % 256) :
    hiByte w = hi ∧ loByte w = lo := by
  constructor
  · rw [hiByte, ← hhi, BitVec.ofNat_toNat, BitVec.setWidth_eq]
  · rw [loByte, ← hlo, BitVec.ofNat_toNat, BitVec.setWidth_eq]

theorem execJsr_next {w : Addr} {s : State} {hi lo : Byte} (hp : s.pc.toNat + 2 ≤ 65535)
    (hhi : hi.toNat = (s.pc.toNat + 2) / 256) (hlo : lo.toNat = (s.pc.toNat + 2) % 256) :
    execJsr w s = .next { s with
      mem := (s.mem.write (0x0100 + s.sp.toNat) hi).write (0x0100 + (s.sp - 1).toNat) lo
      sp := s.sp - 2, pc := w, depth := s.depth + 1, steps := s.steps + 1 } := by
  have hra : (s.pc + 2).toNat = s.pc.toNat + 2 := BitVec.toNat_add_of_lt (show s.pc.toNat + 2 < 65536 by omega)
  have hsp : s.sp - 1 - 1 = s.sp - 2 := by rw [BitVec.sub_sub]; rfl
  obtain ⟨rfl, rfl⟩ := hiByte_loByte_eq (hra ▸ hhi) (hra ▸ hlo)
  rw [execJsr, withOperandBytes_in (by decide) (by decide) (by omega), commit_eq, State.push_eq, State.push_eq, hsp]

theorem returnTarget_le (s : State) : Claims.returnTarget s ≤ 0x10000 := by
  have := (s.mem.read (0x0100 + (s.sp + 1).toNat)).isLt
  have := (s.mem.read (0x0100 + (s.sp + 2).toNat)).isLt
  unfold Claims.returnTarget
  omega

/-- With a call outstanding RTS has one check left, of the address it resumes at. -/
theorem execRts_outstanding {s : State} (hd : 0 < s.depth) :
    execRts s = withAddress (Claims.returnTarget s : Int) s fun t =>
      commit { s with sp := s.sp + 2, pc := t, depth := s.depth - 1 } := by
  have hsp : s.sp + 1 + 1 = s.sp + 2 := by rw [BitVec.add_assoc]; rfl
  rw [execRts, if_neg (by omega), pulled_target, State.pull, State.pull, hsp]

end Sys2Proof.Machine
end

section
/-! PROOFS. The statements about branches, jumps and calls (spec/43_branch_jump_call.md): O55, O56, O57. -/

namespace Sys2Proof.Proofs

open Sys2Proof.Machine

/-- Settles O55: the encodings by their rows, and each branch is the shared `branch` on its own flag. -/
theorem conditionalBranches : Obligations.ConditionalBranches := by
  refine ⟨encodings_of_rows (by decide), encodings_of_rows (by decide), encodings_of_rows (by decide),
    encodings_of_rows (by decide), encodings_of_rows (by decide), encodings_of_rows (by decide),
    fun b => ⟨?_, ?_, ?_, ?_, ?_, ?_⟩⟩
  · exact branches_of_exec rfl fun s => by rw [beq_false]; rfl
  · exact branches_of_exec rfl fun s => by rw [beq_true]; rfl
  · exact branches_of_exec rfl fun s => by rw [beq_true]; rfl
  · exact branches_of_exec rfl fun s => by rw [beq_false]; rfl
  · exact branches_of_exec rfl fun s => by rw [beq_true]; rfl
  · exact branches_of_exec rfl fun s => by rw [beq_false]; rfl

/-- Settles O56: the jump has no check after its operand bytes, the call is `execJsr_next`, and both raise by `exec_missing`. -/
theorem jumpAndCall : Obligations.JumpAndCall := by
  have hx : inExecSet 0x4C = true ∧ inExecSet 0x20 = true := by decide
  refine ⟨fun b1 b2 => ⟨decode_instr (op := 0x4C) rfl (Nat.le_refl 3), decode_instr (op := 0x20) rfl (Nat.le_refl 3)⟩,
    fun w => ⟨rfl, rfl⟩, encodings_of_rows (by decide), fun w s hp => ?_, fun w s hi lo hp hhi hlo => ?_,
    fun w s hp => ⟨exec_missing hx.1 (Nat.succ_lt_succ hp), exec_missing hx.2 (Nat.succ_lt_succ hp)⟩⟩
  · exact (Does.jmp w rfl).exec_eq.trans (withOperandBytes_in (by decide) (by decide) (Nat.succ_le_succ hp))
  · exact (Does.jsr w rfl).exec_eq.trans (execJsr_next hp hhi hlo)

/-- Settles O57: with no call outstanding RTS ends the run, else it resumes at the pulled address plus one where that is an
address; the largest pulled address, 0xFFFF, is the one that gives none. -/
theorem subroutineReturn : Obligations.SubroutineReturn := by
  refine ⟨encodings_of_rows (by decide), fun s hd => ?_, fun s hd ht => ?_, fun s hd ht => ?_⟩
  · exact (Does.rts rfl).exec_eq.trans (execRts_terminal hd)
  · rw [(Does.rts rfl).exec_eq, execRts_outstanding hd, withAddress_nat ht, commit_eq]
  · have hmax : Claims.returnTarget s = 0x10000 := Nat.le_antisymm (returnTarget_le s) ht
    rw [(Does.rts rfl).exec_eq, execRts_outstanding hd, hmax]
    exact ⟨withAddress_out (.inr (by decide)), rfl⟩

end Sys2Proof.Proofs
end

section
/-! PROOFS. The statement about the stack, carry-flag and no-operation instructions (spec/44_stack_flag_misc.md): O58. -/

namespace Sys2Proof.Proofs

open Sys2Proof.Machine

/-- Settles O58: the encodings by their rows; below 0xFFFF each instruction is the advance of a state of its own, of the pushed one
by `State.push_eq`, of the pulled one by `State.pulled_eq` and `State.setNZ_eq`. -/
theorem stackAndFlagInstructions : Obligations.StackAndFlagInstructions := by
  have hline : ∀ i ∈ [Instr.pha, .pla, .clc, .sec, .nop], i.mnemonic.InLine ∧ i.form = .implied := by decide
  refine ⟨encodings_of_rows (by decide), encodings_of_rows (by decide), encodings_of_rows (by decide),
    encodings_of_rows (by decide), encodings_of_rows (by decide), fun s v h hv => ?_,
    fun i hi => failsAtTop_of_inLine (hline i hi).1 (hline i hi).2⟩
  have hc := canAdvance_one h
  refine ⟨?_, ?_, ?_, ?_, ?_⟩
  · rw [(Does.pha rfl).exec_eq, execPha, finish_in hc, State.push_eq]
    rfl
  · rw [(Does.pla rfl).exec_eq, execPla, finish_in hc, s.pulled_eq, ← hv, State.setNZ_eq]
    rfl
  · exact (Does.clc rfl).exec_eq.trans (finish_in hc)
  · exact (Does.sec rfl).exec_eq.trans (finish_in hc)
  · exact (Does.nop rfl).exec_eq.trans (finish_in hc)

end Sys2Proof.Proofs
end

section
/-! PROOFS. The instructions that are decoded and not executed: the outcome they share in `exec` and in `step`, and that the opcode
byte alone decides whether an instruction is one of them. -/

namespace Sys2Proof

open Sys2Proof.Machine

/-! ### The opcode byte decides -/

/-- Two instructions of one opcode byte are of one row (spec/30_encoding.md R80). -/
theorem descriptor_of_opcode {i j : Instr} (h : i.opcode = j.opcode) : i.descriptor = j.descriptor :=
  Option.some.inj ((opcodeTable_opcode i).symm.trans (h ▸ opcodeTable_opcode j))

theorem Machine.DecodedOnlyInstr.of_descriptor {i j : Instr} (hj : DecodedOnlyInstr j) (h : i.descriptor = j.descriptor) :
    DecodedOnlyInstr i := by
  obtain ⟨hmnemonic, -, hmode⟩ := Descriptor.mk.inj h
  rwa [DecodedOnlyInstr, hmnemonic, hmode]

/-- The one byte of the indirect mode (spec/20_memory.md R66). -/
theorem allRows_indirect : ∀ r ∈ allRows, r.mode = .indirect ↔ r.byte = 0x6C := by
  have h : allRows.all (fun r => decide (r.mode = .indirect ↔ r.byte = 0x6C)) = true := by decide +kernel
  simpa only [List.all_eq_true, decide_eq_true_eq] using h

/-! ### The outcome -/

theorem Machine.DecodedOnlyInstr.exec_fatal {i : Instr} (h : DecodedOnlyInstr i) (s : State) :
    exec i s = .next (Claims.fatal s (.unsupportedOpcode i.opcode s.pc)) := by
  rw [h.exec_eq]
  exact unsupported_eq i.opcode s

/-- A fetched byte outside EXEC_SET is raised, and no byte behind it is looked at (spec/60_exceptions.md R205). -/
theorem step_of_notExecuted {s : State} (hr : Ready s) (hx : inExecSet (s.byteAt s.pc) = false) :
    step s = .next (Claims.fatal s (.unsupportedOpcode (s.byteAt s.pc) s.pc)) := by
  obtain ⟨hrun, hbudget⟩ := hr
  exact step_of_fetch_raised hrun (fetch_unsupported hbudget hx)

/-! ### The record -/

/-- The record of an instruction whose bytes are known by themselves. -/
theorem decodeBuffer_of_encode {i : Instr} {bytes : List Byte} {a : Nat} (hb : encode i = bytes) (ha : a + i.size ≤ 65536) :
    decodeBuffer bytes a = some [.record { Claims.recordOf i a with raw := bytes }] := by
  subst hb
  exact (Proofs.decoderRecords i a ha).1

/-- The bytes of a word, from the word (spec/30_encoding.md R76): the converse of `word_of_bytes`. -/
theorem bytes_of_word {w : Addr} {b1 b2 : Byte} (h : w.toNat = b2.toNat * 256 + b1.toNat) :
    [loByte w, hiByte w] = [b1, b2] := by
  have hw : w = word16 b2 b1 := BitVec.eq_of_toNat_eq (h.trans (word16_toNat b2 b1).symm)
  rw [hw, loByte_word16, hiByte_word16]

/-! ### What is claimed of such an opcode byte -/

/-- One instruction of the byte is enough: every other one is of its row. -/
theorem decodedOnly_of_instr (j : Instr) (hj : DecodedOnlyInstr j) : Claims.DecodedOnly j.opcode j.descriptor := by
  have hx : inExecSet j.opcode = false := inExecSet_tierD _ hj.opcode_tierD
  refine ⟨opcodeTable_opcode j, hx, fun i hi => ?_, fun s hr hs => ?_⟩
  · have hd := descriptor_of_opcode hi
    refine ⟨hd, fun s => hi ▸ (hj.of_descriptor hd).exec_fatal s, fun a ha => (Proofs.decoderRecords i a ?_).1⟩
    rwa [← hd] at ha
  · rw [← hs] at hx ⊢
    exact step_of_notExecuted hr hx

end Sys2Proof
end

section
/-! PROOFS. The statements about the instructions that are decoded and not executed (spec/45_decoded_not_executed.md): O59, O60. -/

namespace Sys2Proof.Proofs

open Sys2Proof.Machine

/-- Settles O59: the records are those of BIT and of the indirect jump with the operand the bytes give, and both instructions and
their three bytes are among the decoded-only ones. -/
theorem decodedOnlyOperands : Obligations.DecodedOnlyOperands := by
  have htierD : [0x24, 0x2C, 0x6C] ⊆ Claims.tierD := by decide
  refine ⟨fun op d hd => ?_, fun b1 b2 a ha => ⟨?_, fun w hw => ⟨?_, ?_⟩⟩, fun i s hi => ?_, fun s hr hs => ?_⟩
  · obtain ⟨r, hr, rfl⟩ := opcodeTable_some hd
    obtain ⟨hmem, rfl⟩ := lookup_some hr
    exact allRows_indirect r hmem
  · exact decodeBuffer_of_encode (i := .bitZp b1) rfl (Nat.le_of_succ_le ha)
  · exact decodeBuffer_of_encode (i := .bitAbs w) (congrArg (0x2C :: ·) (bytes_of_word hw)) ha
  · exact decodeBuffer_of_encode (i := .jmpInd w) (congrArg (0x6C :: ·) (bytes_of_word hw)) ha
  · have hd : DecodedOnlyInstr i := hi.imp_left fun hbit => by rw [hbit]; exact List.mem_cons_self
    exact hd.exec_fatal s
  · exact step_of_notExecuted hr (inExecSet_tierD _ (htierD hs))

/-- Settles O60: each byte by an instruction that has it. -/
theorem decodedNotExecuted : Obligations.DecodedNotExecuted :=
  ⟨decodedOnly_of_instr (.bitZp 0) (by decide), decodedOnly_of_instr (.bitAbs 0) (by decide),
    decodedOnly_of_instr .brk (by decide), decodedOnly_of_instr .rti (by decide),
    decodedOnly_of_instr .php (by decide), decodedOnly_of_instr .plp (by decide),
    decodedOnly_of_instr (.bvc 0) (by decide), decodedOnly_of_instr (.bvs 0) (by decide),
    decodedOnly_of_instr .clv (by decide), decodedOnly_of_instr .cld (by decide),
    decodedOnly_of_instr .sed (by decide), decodedOnly_of_instr .cli (by decide),
    decodedOnly_of_instr .sei (by decide), decodedOnly_of_instr (.jmpInd 0) (by decide)⟩

end Sys2Proof.Proofs
end

section
/-! PROOFS. Everything a step can do, with the cause of each terminal outcome (spec/60_exceptions.md R201 to R208): first of an
instruction that redirects, then of a step, then along a run. -/

namespace Sys2Proof

open Sys2Proof.Machine

/-! ### The opcode byte of a step -/

/-- EXEC_SET leaves out the tier D bytes and the undefined bytes, and no other (spec/30_encoding.md R88, R91). -/
theorem inExecSet_eq_false_iff {op : Byte} : inExecSet op = false ↔ op ∈ Claims.tierD ++ Claims.undefinedBytes := by
  obtain ⟨-, -, -, htierD, -⟩ := Proofs.execSetByTier
  rw [List.mem_append, ← lookup_eq_none_iff_undefined]
  constructor
  · intro hx
    cases hr : lookup op with
    | none => exact .inr rfl
    | some r =>
      obtain ⟨hm, hb⟩ := lookup_some hr
      have ht : r.tier = .d := by
        rw [inExecSet_of_lookup hr, ← Bool.not_eq_true, r.executed_iff] at hx
        cases h : r.tier <;> simp [h] at hx ⊢
      rw [← htierD, ← hb]
      exact .inl (List.mem_map_of_mem (List.mem_filter.2 ⟨hm, decide_eq_true ht⟩))
  · rintro (hd | hn)
    · exact inExecSet_tierD op hd
    · exact inExecSet_of_none hn

namespace Machine

theorem fetch_rts {s : State} (hb : s.steps < s.stepBudget) (hop : s.byteAt s.pc = 0x60) : fetch s = .instr .rts := by
  obtain ⟨tl, hw, -⟩ := fetchWindow_cons s
  have hx : inExecSet 0x60 = true := by decide
  have hd : decode s.fetchWindow = .instr .rts tl := by
    rw [hw, hop]
    exact decode_instr (op := 0x60) rfl (Nat.le_add_left 1 tl.length)
  exact fetch_instr hb (hop ▸ hx) hd

/-- The terminal RTS (spec/60_exceptions.md R204). -/
theorem step_terminalRts {s : State} (hr : Ready s) (hop : s.byteAt s.pc = 0x60) (hd : s.depth = 0) :
    step s = .next { s with outcome := .returned, steps := s.steps + 1 } := by
  obtain ⟨hrun, hbudget⟩ := hr
  exact (step_of_fetch_instr hrun (fetch_rts hbudget hop)).trans (execRts_terminal hd)

/-! ### An instruction that redirects -/

section
variable {i : Instr} {s t : State} {a : Int}

/-- An instruction that redirects is the terminal RTS or has a target. -/
theorem goesTo_of_redirects (h : Claims.redirects i s = true) : (i = .rts ∧ s.depth = 0) ∨ ∃ a, GoesTo i s a := by
  by_cases ht : Claims.branchTaken i s = true
  · obtain ⟨b, hf⟩ : ∃ b, i.form = .rel b := by
      cases i with
      | bcc b | bcs b | beq b | bne b | bmi b | bpl b => exact ⟨b, rfl⟩
      | _ => cases ht
    exact .inr ⟨_, .branch b hf ht⟩
  · cases i with
    | jmpAbs w => exact .inr ⟨_, .jmp w rfl⟩
    | jsr w => exact .inr ⟨_, .jsr w rfl⟩
    | rts =>
      rcases Nat.eq_zero_or_pos s.depth with hd | hd
      · exact .inl ⟨rfl, hd⟩
      · exact .inr ⟨_, .rts rfl hd⟩
    | _ =>
      simp only [Claims.redirects, ht] at h
      cases h

/-- An instruction with a target has one check left behind its operand bytes, that of the target. -/
theorem GoesTo.exec_eq (hg : GoesTo i s a) (hb : BytesInSpace i.size s) :
    ∃ f : Addr → State, (∀ p, (f p).outcome = s.outcome) ∧ exec i s = withAddress a s fun p => commit (f p) := by
  cases hg with
  | jmp w hi =>
    subst hi
    have hw := w.isLt
    refine ⟨fun p => { s with pc := p }, fun _ => rfl, ?_⟩
    rw [withAddress_nat (by omega), BitVec.ofNat_toNat, BitVec.setWidth_eq]
    exact withOperandBytes_in (by decide) (by decide) hb
  | jsr w hi =>
    subst hi
    have hw := w.isLt
    refine ⟨fun p =>
      { (s.push (hiByte (s.pc + 2))).push (loByte (s.pc + 2)) with pc := p, depth := s.depth + 1 }, fun _ => rfl, ?_⟩
    rw [withAddress_nat (by omega), BitVec.ofNat_toNat, BitVec.setWidth_eq]
    exact withOperandBytes_in (by decide) (by decide) hb
  | branch b hf ht =>
    rw [size_of_rel hf] at hb
    refine ⟨fun p => { s with pc := p }, fun _ => rfl, ?_⟩
    rw [exec_of_taken hf ht, Machine.branch, withOperandBytes_in (by decide) (by decide) hb, if_pos rfl, branchTarget_eq]
  | rts hi hd =>
    subst hi
    exact ⟨fun p => { s with sp := s.sp + 2, pc := p, depth := s.depth - 1 }, fun _ => rfl, execRts_outstanding hd⟩

/-- A target outside the address space is raised (spec/60_exceptions.md R207 (d), (e)). -/
theorem GoesTo.exec_out (hg : GoesTo i s a) (hb : BytesInSpace i.size s) (ho : a < 0 ∨ 65535 < a) :
    exec i s = .next (Claims.violation s a) := by
  obtain ⟨f, -, he⟩ := hg.exec_eq hb
  exact he.trans (withAddress_out ho)

/-- The only violation of an instruction with a target, its operand bytes fetched, is that of the target. -/
theorem GoesTo.eq_of_violation {a' : Int} {p : Addr} (hg : GoesTo i s a) (hr : s.outcome = .running)
    (hb : BytesInSpace i.size s) (h : exec i s = .next t) (ht : t.outcome = .addressSpaceViolation a' p) : a' = a := by
  obtain ⟨f, hf, he⟩ := hg.exec_eq hb
  rcases withAddress_cases (he.symm.trans h) with ⟨-, -, hc⟩ | ⟨-, rfl⟩
  · rw [← result_next_inj.1 hc] at ht
    cases hr.symm.trans ((hf _).symm.trans ht)
  · cases ht
    rfl

/-- No target lies outside the range spec/60_exceptions.md R201 gives for the offending integer. -/
theorem GoesTo.bounds (hg : GoesTo i s a) : -126 ≤ a ∧ a ≤ 0x100FE := by
  cases hg with
  | jmp w _ | jsr w _ => have := w.isLt; omega
  | branch b _ _ =>
    have := branchTarget_bounds s.pc b
    rw [Claims.target, ← branchTarget_eq]
    omega
  | rts _ _ => have := returnTarget_le s; omega

/-! ### What an instruction raises -/

/-- The causes (b) to (f) of spec/60_exceptions.md R207, of an instruction whose bytes are fetched. -/
theorem exec_violation_cause {p : Addr} (hr : s.outcome = .running) (hb : BytesInSpace i.size s) (h : exec i s = .next t)
    (ht : t.outcome = .addressSpaceViolation a p) :
    (∃ r, i.form = .mem r ∧ 65535 < effectiveAddress r s ∧ a = effectiveAddress r s) ∨
    GoesTo i s a ∨ (Claims.redirects i s = false ∧ a = s.pc.toNat + i.size) := by
  cases exec_effect h with
  | advance s' _ _ ho _ => cases hr.symm.trans (ho.symm.trans ht)
  | redirect s' _ _ ho _ => cases hr.symm.trans (ho.symm.trans ht)
  | missing hm => omega
  | outside r hf ho => cases ht; exact .inl ⟨r, hf, ho, rfl⟩
  | noTarget a' hg _ => cases ht; exact .inr (.inl hg)
  | noNext _ =>
    cases hx : Claims.redirects i s with
    | false => cases ht; exact .inr (.inr ⟨rfl, rfl⟩)
    | true =>
      rcases goesTo_of_redirects hx with ⟨rfl, hd⟩ | ⟨a', hg⟩
      · rw [(Does.rts rfl).exec_eq, execRts_terminal hd] at h
        rw [← result_next_inj.1 h] at ht
        cases ht
      · exact .inr (.inl (hg.eq_of_violation hr hb h ht ▸ hg))
  | returned _ _ => cases ht
  | unsupported _ => cases ht

/-- An effective address outside is that of an indexed absolute or of an indirect-indexed operand
(spec/60_exceptions.md R207 (b), (c)). -/
theorem effectiveAddress_outside {r : MemRef} (h : 65535 < effectiveAddress r s) :
    (∃ w : Addr, r = .absX w ∧ effectiveAddress r s = w.toNat + s.x.toNat) ∨
    (∃ w : Addr, r = .absY w ∧ effectiveAddress r s = w.toNat + s.y.toNat) ∨
    ∃ b : Byte, r = .indY b ∧ effectiveAddress r s =
      (s.mem.read ((b.toNat + 1) % 256)).toNat * 256 + (s.mem.read b.toNat).toNat + s.y.toNat := by
  cases r with
  | absX w => exact .inl ⟨w, rfl, rfl⟩
  | absY w => exact .inr (.inl ⟨w, rfl, rfl⟩)
  | indY b => exact .inr (.inr ⟨b, rfl, by rw [← zpPointer_eq]; rfl⟩)
  | zp b => have := b.isLt; simp only [effectiveAddress] at h; omega
  | zpX b | zpY b => simp only [effectiveAddress] at h; omega
  | abs w => have := w.isLt; simp only [effectiveAddress] at h; omega
  | indX b => have := zpPointer_le (b + s.x) s; simp only [effectiveAddress] at h; omega

/-- No instruction writes the budget (spec/70_reset_and_hazards.md R230): with its own counters a state is itself. -/
theorem exec_stepBudget (h : exec i s = .next t) : t.stepBudget = s.stepBudget := by
  have hb : exec i s = .next { t with steps := s.steps + (t.steps - s.steps), stepBudget := s.stepBudget } :=
    exec_withSteps s.steps s.stepBudget h
  rw [result_next_inj.1 (h.symm.trans hb)]

end

/-! ### A step -/

/-- Everything the next state of a step can be: a commit, or an outcome raised with its cause, nothing else changed
(spec/60_exceptions.md R201 to R207). -/
inductive StepEffect (s : State) : State → Prop where
  | commit (t : State) (hb : s.steps < s.stepBudget) (ho : t.outcome = .running) (hn : t.steps = s.steps + 1)
      (hk : t.stepBudget = s.stepBudget) : StepEffect s t
  | returned (hb : s.steps < s.stepBudget) (hop : s.byteAt s.pc = 0x60) (hd : s.depth = 0) :
      StepEffect s { s with outcome := .returned, steps := s.steps + 1 }
  | unsupported (hx : inExecSet (s.byteAt s.pc) = false) :
      StepEffect s (Claims.fatal s (.unsupportedOpcode (s.byteAt s.pc) s.pc))
  | budget (hb : s.stepBudget ≤ s.steps) : StepEffect s (Claims.fatal s .budgetExceeded)
  | violation (a : Int) (h : a < 0 ∨ 65535 < a) (h₀ : -126 ≤ a) (h₁ : a ≤ 0x100FE) : StepEffect s (Claims.violation s a)

section
variable {s t : State}

/-- Only a run that has not ended has a next step (spec/60_exceptions.md R212). -/
theorem running_of_step (h : step s = .next t) : s.outcome = .running := by
  by_contra hr
  cases (step_ended hr).symm.trans h

/-- A fetched instruction's part of a step. -/
theorem stepEffect_of_exec {i : Instr} (hr : s.outcome = .running) (hb : s.steps < s.stepBudget)
    (hop : i.opcode = s.byteAt s.pc) (h : exec i s = .next t) : StepEffect s t := by
  have hk := exec_stepBudget h
  have hp := s.pc.isLt
  have hz := i.size_le
  cases exec_effect h with
  | advance s' _ _ ho hn => exact .commit _ hb (ho.trans hr) (congrArg (· + 1) hn) hk
  | redirect s' _ _ ho hn => exact .commit _ hb (ho.trans hr) (congrArg (· + 1) hn) hk
  | missing _ => exact .violation 65536 (by omega) (by omega) (by omega)
  | outside r _ ho =>
    have := effectiveAddress_le r s
    exact .violation _ (by omega) (by omega) (by omega)
  | noNext ho => exact .violation _ (by omega) (by omega) (by omega)
  | noTarget a hg ho => exact .violation a ho hg.bounds.1 hg.bounds.2
  | returned hi hd => subst hi; exact .returned hb hop.symm hd
  | unsupported hx => rw [hop] at hx ⊢; exact .unsupported hx

theorem step_effect (h : step s = .next t) : StepEffect s t := by
  have hr := running_of_step h
  rcases step_cases hr h with ⟨hb, rfl⟩ | ⟨_, hx, rfl⟩ | ⟨_, _, d, _, _, rfl⟩ | ⟨hb, _, i, rest, _, hop, _, _, he⟩
  · exact .budget hb
  · exact .unsupported hx
  · exact .violation 65536 (by omega) (by omega) (by omega)
  · exact stepEffect_of_exec hr hb hop he

/-- A step counts only below the budget, and does not change the budget (spec/60_exceptions.md R206). -/
theorem StepEffect.keepsBudget (h : StepEffect s t) (hs : s.steps ≤ s.stepBudget) :
    t.steps ≤ t.stepBudget ∧ t.stepBudget = s.stepBudget := by
  cases h with
  | commit _ hb _ hn hk => exact ⟨by omega, hk⟩
  | returned hb _ _ => exact ⟨hb, rfl⟩
  | unsupported _ | budget _ | violation _ _ _ _ => exact ⟨hs, rfl⟩

end

/-! ### A run -/

/-- What every step keeps holds along a run. -/
theorem after_of_step {P : State → Prop} (hstep : ∀ s t, P s → step s = .next t → P t) (k : Nat) {s : State} (h : P s) :
    P (State.after k s) := by
  induction k generalizing s with
  | zero => exact h
  | succ k ih =>
    rw [State.after]
    split
    · exact ih (hstep s _ h ‹_›)
    · exact h
    · exact h

/-- At no point of a run have more instructions executed than the budget allows. -/
theorem after_steps_le (k : Nat) {s : State} (h : s.steps ≤ s.stepBudget) : (State.after k s).steps ≤ s.stepBudget := by
  have hkeep : ∀ u v : State, u.steps ≤ u.stepBudget ∧ u.stepBudget = s.stepBudget → step u = .next v →
      v.steps ≤ v.stepBudget ∧ v.stepBudget = s.stepBudget := fun u v ⟨hu, hbu⟩ hv =>
    ((step_effect hv).keepsBudget hu).imp_right (·.trans hbu)
  obtain ⟨hle, hbudget⟩ := after_of_step hkeep k ⟨h, rfl⟩
  exact hbudget ▸ hle

/-- A launch that breaks a precondition is refused (spec/60_exceptions.md R221). -/
theorem launch_refused {li : LaunchInputs} (h : ¬ li.wf) : launch li = none := if_neg h

end Machine

end Sys2Proof
end

section
/-! PROOFS. The statements about the terminal outcomes (spec/60_exceptions.md): O13, O14, O16, O17, O18, O19, O20, O36. -/

namespace Sys2Proof.Proofs

open Sys2Proof.Machine

/-- Settles O13: the budget check comes before the fetch, and only it raises `BudgetExceeded`; along a run every step keeps
`steps` within the budget. -/
theorem budgetCheck : Obligations.BudgetCheck := by
  refine ⟨fun s hr hb => ?_, fun s t _ h ht => ?_, fun li s k h => ?_, fun s hr hb hop hd => ?_, fun li s h hb => ?_⟩
  · exact step_of_fetch_raised hr (fetch_budget hb)
  · cases step_effect h with
    | budget hb => exact hb
    | commit _ _ ho _ _ => cases ho.symm.trans ht
    | returned _ _ _ | unsupported _ | violation _ _ _ _ => cases ht
  · obtain ⟨-, rfl⟩ := launch_some h
    exact after_steps_le k (Nat.zero_le _)
  · exact ⟨_, step_terminalRts ⟨hr, by omega⟩ hop hd, rfl, hb⟩
  · obtain ⟨-, rfl⟩ := launch_some h
    exact step_of_fetch_raised rfl (fetch_budget (Nat.le_of_eq hb))

/-- Settles O14: the tier D bytes and the undefined bytes are what EXEC_SET leaves out. -/
theorem unsupportedByte : Obligations.UnsupportedByte := by
  refine ⟨fun s hr hop => step_of_notExecuted hr (inExecSet_eq_false_iff.2 hop), fun s t byte address _ h ht => ?_⟩
  cases step_effect h with
  | unsupported hx => cases ht; exact ⟨rfl, rfl, inExecSet_eq_false_iff.1 hx⟩
  | commit _ _ ho _ _ => cases ho.symm.trans ht
  | returned _ _ _ | budget _ | violation _ _ _ _ => cases ht

/-- Settles O16, a row of the table for each way a step can end the run. -/
theorem outcomeTable : Obligations.OutcomeTable := by
  refine ⟨fun o => ?_, rfl, fun s t _ h ht => ?_⟩
  · cases o <;> simp [RunOutcome.success, RunOutcome.code]
  · cases step_effect h with
    | commit _ _ ho _ _ => exact absurd ho ht
    | returned _ hop hd => exact .inl ⟨rfl, rfl, hop, hd⟩
    | unsupported hx => exact .inr (.inl ⟨rfl, rfl, hx⟩)
    | budget hb => exact .inr (.inr (.inl ⟨rfl, rfl, hb⟩))
    | violation a ho h₀ h₁ => exact .inr (.inr (.inr ⟨a, rfl, rfl, ho, h₀, h₁⟩))

/-- Settles O17: whatever a step raises, it raises in the state before it. -/
theorem raiseIsPrecise : Obligations.RaiseIsPrecise := by
  intro s t _ h
  cases step_effect h with
  | commit _ _ ho hn _ => exact .inl ⟨ho, hn⟩
  | returned _ _ _ => exact .inr (.inl ⟨rfl, rfl⟩)
  | unsupported _ | budget _ | violation _ _ _ _ => exact .inr (.inr ⟨nofun, nofun, rfl⟩)

/-- Settles O18: the terminal RTS returns, and a step that returns was at one. -/
theorem returnedIsTerminalRts : Obligations.ReturnedIsTerminalRts := by
  refine ⟨fun s => step_terminalRts, fun s t _ h ht => ?_⟩
  cases step_effect h with
  | returned _ hop hd => exact ⟨hop, hd, rfl, rfl, rfl⟩
  | commit _ _ ho _ _ => cases ho.symm.trans ht
  | unsupported _ | budget _ | violation _ _ _ _ => cases ht

/-- Settles O19: cause (a) is the fetch's, the others are the fetched instruction's by `exec_violation_cause`. -/
theorem violationCauses : Obligations.ViolationCauses := by
  intro s t a p hr h ht
  obtain ⟨hp, ho⟩ : p = s.pc ∧ (a < 0 ∨ 65535 < a) := by
    cases step_effect h with
    | violation a ho _ _ => cases ht; exact ⟨rfl, ho⟩
    | commit _ _ hc _ _ => cases hc.symm.trans ht
    | returned _ _ _ | unsupported _ | budget _ => cases ht
  rcases step_cases hr h with ⟨_, rfl⟩ | ⟨_, _, rfl⟩ | ⟨_, hx, d, hd, hm, rfl⟩ | ⟨_, hx, i, rest, hi, _, hd, hb, he⟩
  · cases ht
  · cases ht
  · cases ht
    have hpc := s.pc.isLt
    have hle := opcodeTable_size_le hd
    refine ⟨hp, ho, hx, d, hd, ?_⟩
    by_cases htop : s.pc.toNat = 65535
    · exact .inl ⟨by omega, by omega⟩
    · exact .inr (.inl ⟨by omega, by omega⟩)
  · refine ⟨hp, ho, hx, i.descriptor, hd, .inr (.inr ⟨i, rest, hi, rfl, ?_⟩)⟩
    rcases exec_violation_cause hr hb he ht with ⟨r, hf, hea, rfl⟩ | hg | ⟨hn, ha⟩
    · rcases effectiveAddress_outside hea with ⟨w, rfl, hw⟩ | ⟨w, rfl, hw⟩ | ⟨b, rfl, hb⟩
      · exact .inl ⟨w, hf, by rw [hw, Nat.cast_add]⟩
      · exact .inr (.inl ⟨w, hf, by rw [hw, Nat.cast_add]⟩)
      · exact .inr (.inr (.inl ⟨b, hf, by rw [hb]; push_cast; rfl⟩))
    · cases hg with
      | jmp w _ | jsr w _ => have := w.isLt; omega
      | branch b hf hb => exact .inr (.inr (.inr (.inl ⟨b, hf, hb, rfl⟩)))
      | rts hi hd =>
        have := returnTarget_le s
        exact .inr (.inr (.inr (.inr (.inl ⟨hi, hd, by omega, by omega⟩))))
    · exact .inr (.inr (.inr (.inr (.inr ⟨hn, ha⟩))))

/-- Settles O20, in the order of the checks: those of the fetch, then those of the fetched instruction. -/
theorem outcomePriority : Obligations.OutcomePriority := by
  intro s hr
  refine ⟨fun hb => step_of_fetch_raised hr (fetch_budget hb), fun hb => ?_⟩
  refine ⟨fun hx => step_of_notExecuted ⟨hr, hb⟩ hx, fun d hx hd hpc hz => ?_, fun d hx hd hpc hz => ?_,
    fun i rest hx hi => ?_⟩
  · exact step_of_missing ⟨hr, hb⟩ hd hx (by rw [hpc]; exact Nat.add_lt_add_left hz 65535)
  · exact step_of_missing ⟨hr, hb⟩ hd hx (by rw [hpc, hz]; decide)
  · obtain ⟨hop, -, hfit⟩ := decode_fetchWindow_row hi
    rw [step_of_fetch_instr hr (fetch_instr hb hx hi)]
    refine ⟨fun r hf ho => exec_outside hf hfit ho, fun b hf ht ho => (GoesTo.branch b hf ht).exec_out hfit ho,
      fun hrts hd => ?_, fun hrts hd htarget => ?_, fun hn hea ho => ?_⟩
    · exact (Does.rts hrts).exec_eq.trans (execRts_terminal hd)
    · have hg : GoesTo i s 0x10000 := by
        have hg := GoesTo.rts hrts hd
        rwa [htarget] at hg
      exact hg.exec_out hfit (.inr (by decide))
    · exact exec_noNext (hop ▸ hx) hn hea (by omega)

/-- Settles O36: the refusals are the preconditions of `LaunchInputs.wf` and of the Decoder's call. -/
theorem hostErrorsRefused : Obligations.HostErrorsRefused := by
  refine ⟨fun li hs => launch_refused fun ⟨hstart, _⟩ => ?_, fun li p hp ho => launch_refused fun ⟨_, hsnap, _⟩ => ?_,
    fun li ho => launch_refused fun ⟨_, _, _, hfit, _⟩ => ?_, fun _ _ => decodeBuffer_none,
    fun li hstart hsnap hcode hfit hfill => ⟨_, if_pos ⟨hstart, hsnap, hcode, hfit, hfill⟩⟩⟩
  · exact Nat.not_lt.2 hs hstart
  · obtain ⟨haddr, hval⟩ := hsnap p hp
    exact ho.elim (Nat.not_le.2 haddr) (Nat.not_le.2 hval)
  · exact Nat.not_lt.2 hfit ho

end Sys2Proof.Proofs
end

section
/-! PROOFS. The memory of a launch, its code over the snapshot over the fill (spec/70_reset_and_hazards.md R233): O35. -/

namespace Sys2Proof.Machine

/-- What a snapshot does not name stays as it was. -/
theorem Memory.read_applySnapshot_of_not_named {m : Memory} {l : List (Nat × Nat)} {k : Nat} (h : ∀ v, (k, v) ∉ l) :
    (applySnapshot m l).read k = m.read k := by
  induction l generalizing m with
  | nil => rfl
  | cons p l ih =>
    have hk : k ≠ p.1 := fun e => h p.2 (e ▸ List.mem_cons_self)
    rw [applySnapshot, ih fun v hv => h v (List.mem_cons_of_mem _ hv), Memory.read_write_other m _ hk]

/-- The only value a snapshot gives an address is what the address holds after it. -/
theorem Memory.read_applySnapshot_of_named {m : Memory} {l : List (Nat × Nat)} {k v : Nat} (hm : m.wf)
    (hl : ∀ p ∈ l, p.1 < Config.memorySize) (hv : (k, v) ∈ l) (honly : ∀ v', (k, v') ∈ l → v' = v) :
    (applySnapshot m l).read k = BitVec.ofNat 8 v := by
  induction l generalizing m with
  | nil => cases hv
  | cons p l ih =>
    by_cases htail : (k, v) ∈ l
    · exact ih (Memory.write_wf _ hm (hl p List.mem_cons_self)) (fun q hq => hl q (List.mem_cons_of_mem _ hq)) htail
        fun v' hv' => honly v' (List.mem_cons_of_mem _ hv')
    · obtain rfl : (k, v) = p := (List.mem_cons.1 hv).resolve_right htail
      have hlast : ∀ v', (k, v') ∉ l := fun v' hv' => htail (honly v' (List.mem_cons_of_mem _ hv') ▸ hv')
      rw [applySnapshot, Memory.read_applySnapshot_of_not_named hlast, Memory.read_write_same _ hm]

section
variable {li : LaunchInputs} {k v : Nat}

/-- The code wins an overlap: each of its bytes is at its place, whatever the snapshot and the fill put there. -/
theorem LaunchInputs.wf.read_mem0_code (h : li.wf) {j : Nat} (hj : li.code[j]? = some v) :
    (li.mem0.read (li.loadAt + j)).toNat = v := by
  obtain ⟨_, hsnap, hcode, hfit, hfill⟩ := h
  have hwf := Memory.applySnapshot_wf hfill fun p hp => (hsnap p hp).1
  rw [LaunchInputs.mem0, Memory.read_writeBytes (v := BitVec.ofNat 8 v) hwf (by simpa using hfit) (by simp [hj]),
    BitVec.toNat_ofNat, Nat.mod_eq_of_lt (hcode v (List.mem_of_getElem? hj))]

/-- Outside the code `MEM0` is the snapshot over the fill. -/
theorem LaunchInputs.read_mem0_outside (hk : k < li.loadAt ∨ li.loadAt + li.code.length ≤ k) :
    li.mem0.read k = (applySnapshot li.fill li.snapshot).read k :=
  Memory.read_writeBytes_other _ _ (by simpa using hk)

/-- Outside the code an address the snapshot gives one value holds it. -/
theorem LaunchInputs.wf.read_mem0_snapshot (h : li.wf) (hk : k < li.loadAt ∨ li.loadAt + li.code.length ≤ k)
    (hv : (k, v) ∈ li.snapshot) (honly : ∀ v', (k, v') ∈ li.snapshot → v' = v) : (li.mem0.read k).toNat = v := by
  obtain ⟨_, hsnap, _, _, hfill⟩ := h
  rw [LaunchInputs.read_mem0_outside hk,
    Memory.read_applySnapshot_of_named hfill (fun p hp => (hsnap p hp).1) hv honly,
    BitVec.toNat_ofNat, Nat.mod_eq_of_lt (hsnap _ hv).2]

/-- An address that neither the code nor the snapshot names holds the fill. -/
theorem LaunchInputs.read_mem0_fill (hk : k < li.loadAt ∨ li.loadAt + li.code.length ≤ k)
    (hnone : ∀ v, (k, v) ∉ li.snapshot) : li.mem0.read k = li.fill.read k := by
  rw [LaunchInputs.read_mem0_outside hk, Memory.read_applySnapshot_of_not_named hnone]

end

end Sys2Proof.Machine

namespace Sys2Proof.Proofs

open Sys2Proof.Machine

/-- Settles O35: a launch state's memory is `MEM0`, read layer by layer; every function is a fill by `Memory.ofFn`. -/
theorem launchMemory : Obligations.LaunchMemory := by
  refine ⟨fun li s h => ?_, fun f => ⟨Memory.ofFn f, Memory.ofFn_wf f, fun _ => Memory.read_ofFn f⟩, fun _ => rfl⟩
  obtain ⟨hwf, rfl⟩ := launch_some h
  have ⟨_, _, _, hfit, _⟩ := hwf
  refine ⟨fun hstart => ?_, fun a ha => ?_, hfit, fun _ _ => hwf.read_mem0_code, fun _ _ => hwf.read_mem0_snapshot,
    fun _ => LaunchInputs.read_mem0_fill⟩
  · rw [LaunchInputs.loadAt, hstart, Option.getD_none]
  · rw [LaunchInputs.loadAt, ha, Option.getD_some]

end Sys2Proof.Proofs
end

section
/-! PROOFS. Everything the Decoder's output can be, as a relation built by the turns of its loop (spec/30_encoding.md R85 to R87), and
what follows for the bytes, the addresses and the placeholders of the output. -/

namespace Sys2Proof

/-- `items` is an output of the Decoder for `buf` placed at `start`: each turn is the end of the buffer, an instruction cut short, a
placeholder, or the record of an instruction. -/
inductive DecoderOutput : Nat → List Byte → List DecodedItem → Prop where
  | done (start : Nat) : DecoderOutput start [] []
  | cut (start : Nat) (op : Byte) (rest : List Byte) (d : Descriptor) (hd : opcodeTable op = some d)
      (hl : rest.length + 1 < d.size) : DecoderOutput start (op :: rest) []
  | placeholder (start : Nat) (op : Byte) (rest : List Byte) (items : List DecodedItem) (hn : opcodeTable op = none)
      (h : DecoderOutput (start + 1) rest items) :
      DecoderOutput start (op :: rest) (.placeholder (BitVec.ofNat 16 start) op :: items)
  | record (start : Nat) (i : Instr) (rest : List Byte) (items : List DecodedItem)
      (h : DecoderOutput (start + (encode i).length) rest items) :
      DecoderOutput start (encode i ++ rest) (.record (Claims.recordOf i start) :: items)

/-- The Decoder's output is one; the induction is on the bytes left, of which every turn takes at least one. -/
theorem decodeBuffer_output {buf : List Byte} {start : Nat} {items : List DecodedItem}
    (h : decodeBuffer buf start = some items) : DecoderOutput start buf items := by
  have hfit : start + buf.length ≤ 65536 := by
    by_contra ho
    rw [decodeBuffer_none (by omega)] at h
    cases h
  induction hn : buf.length using Nat.strong_induction_on generalizing buf start items with
  | _ n ih =>
    cases buf with
    | nil =>
      rw [decodeBuffer_nil (start := start) hfit] at h
      cases h
      exact .done start
    | cons op rest =>
      rw [List.length_cons] at hfit hn
      cases hd : opcodeTable op with
      | none =>
        rw [decodeBuffer_undefined hfit (opcodeTable_none.1 hd), Option.map_eq_some_iff] at h
        obtain ⟨items, h, rfl⟩ := h
        exact .placeholder start op rest items hd (ih rest.length (by omega) h (by omega) rfl)
      | some d =>
        by_cases hl : rest.length + 1 < d.size
        · obtain ⟨r, hr, rfl⟩ := opcodeTable_some hd
          rw [decodeBuffer_truncated hfit hr hl] at h
          cases h
          exact .cut start op rest r.descriptor hd hl
        · obtain ⟨i, -, henc, hbuf⟩ := decodeBuffer_instr hfit hd (by omega)
          rw [hbuf, Option.map_eq_some_iff] at h
          obtain ⟨items, h, rfl⟩ := h
          have hlen : (encode i).length = d.size := by rw [henc, List.length_take, List.length_cons]; omega
          have hpos : 1 ≤ (encode i).length := by rw [encode_length]; exact i.size_pos
          rw [← hlen] at h
          rw [← List.take_append_drop d.size (op :: rest), ← henc, ← hlen]
          exact .record start i _ items
            (ih _ (by rw [List.length_drop, List.length_cons]; omega) h (by rw [List.length_drop, List.length_cons]; omega) rfl)

/-- Each element's address is `start` plus the number of bytes of the elements before it. -/
def ItemsFrom (start : Nat) (items : List DecodedItem) : Prop :=
  ∀ before it after, items = before ++ it :: after →
    Claims.itemAddress it = BitVec.ofNat 16 (start + (before.flatMap Claims.itemBytes).length)

theorem ItemsFrom.nil (start : Nat) : ItemsFrom start [] := fun before it after h => by simp at h

theorem ItemsFrom.cons {start : Nat} {it : DecodedItem} {items : List DecodedItem}
    (hit : Claims.itemAddress it = BitVec.ofNat 16 start) (h : ItemsFrom (start + (Claims.itemBytes it).length) items) :
    ItemsFrom start (it :: items) := by
  intro before it' after heq
  rcases List.cons_eq_append_iff.1 heq with ⟨rfl, heq'⟩ | ⟨before', rfl, heq'⟩
  · cases heq'
    exact hit
  · rw [h before' it' after heq', List.flatMap_cons, List.length_append, Nat.add_assoc]

section
variable {start : Nat} {buf : List Byte} {items : List DecodedItem}

/-- The bytes of the elements are the buffer, but for one defined instruction cut short (spec/30_encoding.md R86). -/
theorem DecoderOutput.covers (h : DecoderOutput start buf items) :
    ∃ tail, buf = items.flatMap Claims.itemBytes ++ tail ∧
      (tail = [] ∨ ∃ op tl d, tail = op :: tl ∧ opcodeTable op = some d ∧ tail.length < d.size) := by
  induction h with
  | done start => exact ⟨[], rfl, .inl rfl⟩
  | cut start op rest d hd hl => exact ⟨op :: rest, rfl, .inr ⟨op, rest, d, rfl, hd, hl⟩⟩
  | placeholder start op rest items _ _ ih =>
    obtain ⟨tail, rfl, htail⟩ := ih
    exact ⟨tail, rfl, htail⟩
  | record start i rest items _ ih =>
    obtain ⟨tail, rfl, htail⟩ := ih
    exact ⟨tail, by rw [List.flatMap_cons, List.append_assoc]; rfl, htail⟩

/-- An element stands at the address of its first byte (spec/30_encoding.md R87, R94). -/
theorem DecoderOutput.itemsFrom (h : DecoderOutput start buf items) : ItemsFrom start items := by
  induction h with
  | done | cut => exact ItemsFrom.nil _
  | placeholder start op rest items _ _ ih => exact ItemsFrom.cons rfl ih
  | record start i rest items _ ih => exact ItemsFrom.cons rfl ih

/-- The size of an element is the number of its bytes (spec/30_encoding.md R70). -/
theorem DecoderOutput.size_eq (h : DecoderOutput start buf items) : ∀ it ∈ items, it.size = (Claims.itemBytes it).length := by
  induction h with
  | done | cut => exact List.forall_mem_nil _
  | placeholder start op rest items _ _ ih => exact List.forall_mem_cons.2 ⟨rfl, ih⟩
  | record start i rest items _ ih => exact List.forall_mem_cons.2 ⟨(encode_length i).symm, ih⟩

/-- A placeholder stands for a byte with no Opcode Table entry (spec/30_encoding.md R87). -/
theorem DecoderOutput.opcodeTable_placeholder (h : DecoderOutput start buf items) {a : Addr} {b : Byte}
    (hm : DecodedItem.placeholder a b ∈ items) : opcodeTable b = none := by
  induction h with
  | done | cut => cases hm
  | placeholder start op rest items hn _ ih =>
    rcases List.mem_cons.1 hm with he | hm
    · cases he; exact hn
    · exact ih hm
  | record start i rest items _ ih => exact ih ((List.mem_cons.1 hm).resolve_left nofun)

end

end Sys2Proof
end

section
/-! PROOFS. The statements about encoding and the Decoder as a whole (spec/30_encoding.md): O1, O2, O10. -/

namespace Sys2Proof.Proofs

/-- Settles O1, by `decode_encode_append`: the row of the opcode rebuilds the instruction from its operand bytes, and every
instruction is well formed. -/
theorem decodeOfEncode : Obligations.DecodeOfEncode := fun i rest _ => decode_encode_append i rest

/-- Settles O2: the bytes an instruction takes are its encoding, and those behind them are the rest. -/
theorem encodeOfDecode : Obligations.EncodeOfDecode := by
  intro bytes rest i h
  obtain ⟨op, tl, _, rfl, -⟩ := decode_instr_cases h
  obtain ⟨-, -, -, hrest⟩ := decode_instr_row h
  obtain ⟨-, -, hwf, -⟩ := tableRow_of i
  refine ⟨hwf, ?_⟩
  rw [encode_of_decode h, hrest, ← List.drop_cons i.size_pos, List.take_append_drop]

/-- Settles O10, by the turns of the Decoder's loop. -/
theorem decoderCoversBuffer : Obligations.DecoderCoversBuffer := by
  intro buf start items h
  have ho := decodeBuffer_output h
  refine ⟨ho.covers, ho.itemsFrom, fun it hit => ?_, fun a b hm => ?_⟩
  · have hraw : it.raw = Claims.itemBytes it := by cases it <;> rfl
    exact ⟨by cases it <;> rfl, hraw, hraw ▸ ho.size_eq it hit⟩
  · exact ⟨ho.opcodeTable_placeholder hm, rfl, rfl, rfl, rfl, rfl⟩

end Sys2Proof.Proofs
end

section
/-! PROOFS. What each instruction writes, said once: `exec_leaves` says that a next state is a commit of one of the changes of
`Changes` or the state before the step with an outcome raised, and the lemmas behind it read each field off `Changes`. -/

namespace Sys2Proof.Machine

/-! ### Stores -/

/-- `m'` is `m` after one store to each of these addresses, in their order, all of them in the address space. -/
inductive Memory.StoredAt : Memory → List Nat → Memory → Prop where
  | nil (m : Memory) : StoredAt m [] m
  | cons (m m' : Memory) (k : Nat) (ks : List Nat) (v : Byte) (hk : k < Config.memorySize) (h : StoredAt (m.write k v) ks m') :
      StoredAt m (k :: ks) m'

theorem Memory.StoredAt.single {m : Memory} {k : Nat} (v : Byte) (hk : k < Config.memorySize) :
    Memory.StoredAt m [k] (m.write k v) := .cons m _ k [] v hk (.nil _)

theorem Memory.StoredAt.wf {m m' : Memory} {ks : List Nat} (h : Memory.StoredAt m ks m') (hm : m.wf) : m'.wf := by
  induction h with
  | nil m => exact hm
  | cons m m' k ks v hk _ ih => exact ih (Memory.write_wf v hm hk)

theorem Memory.StoredAt.read_other {m m' : Memory} {ks : List Nat} (h : Memory.StoredAt m ks m') {j : Nat} (hj : j ∉ ks) :
    m'.read j = m.read j := by
  induction h with
  | nil m => rfl
  | cons m m' k ks v _ _ ih =>
    obtain ⟨hne, hj⟩ := not_or.1 (List.mem_cons.not.1 hj)
    rw [ih hj, Memory.read_write_other m v hne]

theorem Memory.StoredAt.eq_of_nil {m m' : Memory} (h : Memory.StoredAt m [] m') : m' = m := by
  cases h
  rfl

/-- No entry of a canonical memory names an address outside the address space. -/
theorem Memory.read_outside {m : Memory} {k : Nat} (hm : m.wf) (hk : ¬ k < 65536) : m.read k = Config.fillByte :=
  Memory.read_of_not_listed fun c hc hck => hk (hck ▸ (hm.2 c hc).1)

/-- Writing back what is there changes nothing. -/
theorem Memory.write_read_self {m : Memory} {k : Nat} (hm : m.wf) (hk : k < Config.memorySize) : m.write k (m.read k) = m := by
  refine Memory.ext_of_read (Memory.write_wf _ hm hk) hm fun j => ?_
  by_cases hj : j = k
  · rw [hj, Memory.read_write_same _ hm]
  · exact Memory.read_write_other m _ hj

/-- The mnemonics that store to their effective address, in their memory forms. -/
abbrev operandStorers : List Mnemonic := [.sta, .stx, .sty, .inc, .dec, .asl, .lsr, .rol, .ror]

theorem storedAddresses_of_mem {i : Instr} {r : MemRef} {s : State} (hm : i.mnemonic ∈ operandStorers) (hf : i.form = .mem r) :
    storedAddresses i s = [effectiveAddress r s] := by
  rw [storedAddresses, if_pos hm, hf]
  rfl

theorem storedAddresses_of_not_storer {i : Instr} {s : State} (hm : i.mnemonic ∉ operandStorers ++ [.pha, .jsr]) :
    storedAddresses i s = [] := by
  simp only [List.mem_append, List.mem_cons, List.not_mem_nil, or_false, not_or] at hm
  simp [storedAddresses, hm]

theorem storedAddresses_of_pha {i : Instr} {s : State} (hm : i.mnemonic = .pha) :
    storedAddresses i s = [(stackAddr s.sp).toNat] := by simp [storedAddresses, hm]

theorem storedAddresses_of_jsr {i : Instr} {s : State} (hm : i.mnemonic = .jsr) :
    storedAddresses i s = [(stackAddr s.sp).toNat, (stackAddr (s.sp - 1)).toNat] := by simp [storedAddresses, hm]

/-- PHA and JSR have no accumulator form, and an accumulator form names no address. -/
theorem storedAddresses_of_accumulator {i : Instr} {s : State} (hmode : i.mode = .accumulator) : storedAddresses i s = [] := by
  obtain ⟨-, -, hwf, -⟩ := tableRow_of i
  have hrow : .accumulator ∈ i.mnemonic.modes := by simpa [Instr.wf, wellFormedForm, ← hmode, Instr.mode] using hwf
  have hform : i.form.memRef? = none := by
    cases hf : i.form with
    | mem r => rw [Instr.mode, hf] at hmode; cases r <;> cases hmode
    | _ => rfl
  have hpha : i.mnemonic ≠ .pha := fun h => absurd (h ▸ hrow) (by decide)
  have hjsr : i.mnemonic ≠ .jsr := fun h => absurd (h ▸ hrow) (by decide)
  simp [storedAddresses, hform, hpha, hjsr]

/-! ### The changes of a commit -/

/-- The mnemonics that load or move a byte into a register and set N and Z from it. -/
def loadersOf : Reg → List Mnemonic
  | .a => [.lda, .txa, .tya]
  | .x => [.ldx, .tax, .tsx, .inx, .dex]
  | .y => [.ldy, .tay, .iny, .dey]

/-- The read-modify-write mnemonics. -/
abbrev modifiers : List Mnemonic := [.asl, .lsr, .rol, .ror, .inc, .dec]

/-- The mnemonics that write the carry as a result of an operation. -/
abbrev carryOperations : List Mnemonic := [.adc, .sbc, .cmp, .cpx, .cpy, .asl, .lsr, .rol, .ror]

/-- What a committed instruction leaves but for `PC` and `steps`, with the mnemonics that leave it so (spec/10_state.md R21, R25,
R26, R34, R38; spec/20_memory.md R58). -/
inductive Changes (i : Instr) (s : State) : State → Prop where
  | loaded (r : Reg) (v : Byte) (hm : i.mnemonic ∈ loadersOf r) : Changes i s ((s.setReg r v).setNZ v)
  | accumulated (v : Byte) (c : Bool) (hm : i.mnemonic ∈ [.adc, .sbc, .and, .ora, .eor])
      (hc : i.mnemonic ∈ carryOperations ∨ c = s.c) : Changes i s (((s.setReg .a v).setNZ v).setC c)
  | compared (v : Byte) (c : Bool) (hm : i.mnemonic ∈ [.cmp, .cpx, .cpy]) : Changes i s ((s.setNZ v).setC c)
  | modifiedAcc (v : Byte) (c : Bool) (hm : i.mnemonic ∈ modifiers) (hf : i.mode = .accumulator)
      (hc : i.mnemonic ∈ carryOperations ∨ c = s.c) : Changes i s (((s.setReg .a v).setNZ v).setC c)
  | modifiedMem (v : Byte) (c : Bool) (r : MemRef) (hm : i.mnemonic ∈ modifiers) (hf : i.form = .mem r)
      (he : effectiveAddress r s ≤ 65535) (hc : i.mnemonic ∈ carryOperations ∨ c = s.c) :
      Changes i s ((({ s with mem := s.mem.write (effectiveAddress r s) v } : State).setNZ v).setC c)
  | stored (v : Byte) (r : MemRef) (hm : i.mnemonic ∈ [.sta, .stx, .sty]) (hf : i.form = .mem r)
      (he : effectiveAddress r s ≤ 65535) : Changes i s { s with mem := s.mem.write (effectiveAddress r s) v }
  | carry (c : Bool) (hm : i.mnemonic ∈ [.clc, .sec]) : Changes i s (s.setC c)
  | nothing (hm : i.mnemonic ∈ [.bcc, .bcs, .beq, .bne, .bmi, .bpl, .jmp, .nop]) : Changes i s s
  | stackPointer (v : Byte) (hm : i.mnemonic ∈ [.txs]) : Changes i s { s with sp := v }
  | pushed (v : Byte) (hm : i.mnemonic ∈ [.pha]) : Changes i s (s.push v)
  | pulled (v : Byte) (hm : i.mnemonic ∈ [.pla]) : Changes i s ((s.pull.setReg .a v).setNZ v)
  | called (hi lo : Byte) (hm : i.mnemonic ∈ [.jsr]) : Changes i s { (s.push hi).push lo with depth := s.depth + 1 }
  | resumed (hm : i.mnemonic ∈ [.rts]) : Changes i s { s.pull.pull with depth := s.depth - 1 }

theorem mode_of_place_acc {i : Instr} (h : i.form.place? = some .acc) : i.mode = .accumulator := by
  rw [Instr.mode]
  cases hf : i.form <;> simp [hf, OperandForm.place?] at h
  rfl

/-- The next state of an instruction: its change committed at some next `PC`, or an outcome raised and nothing else
(spec/60_exceptions.md R202, R203). -/
inductive Leaves (i : Instr) (s : State) : State → Prop where
  | commit (s' : State) (p : Addr) (hc : Changes i s s') : Leaves i s { s' with pc := p, steps := s'.steps + 1 }
  | raised (o : RunOutcome) : Leaves i s (s.raised o)

section
variable {i : Instr} {s t : State}

theorem Violation.leaves (h : Violation s t) : Leaves i s t := by
  obtain ⟨addr, -, -, -, rfl⟩ := h
  exact .raised _

theorem finish_leaves {size : Nat} {s' : State} (hc : Changes i s s') (h : finish size s s' = .next t) : Leaves i s t := by
  rcases finish_cases h with ⟨-, rfl⟩ | ⟨-, rfl⟩
  · exact .commit s' _ hc
  · exact .raised _

theorem execJmpAbs_leaves {w : Addr} (hm : i.mnemonic ∈ [.jmp]) (h : execJmpAbs w s = .next t) : Leaves i s t := by
  rcases withOperandBytes_cases (by decide) (by decide) h with ⟨-, h⟩ | ⟨-, rfl⟩
  · rw [← result_next_inj.1 h]
    exact .commit s w (.nothing (by simp [List.mem_singleton.1 hm]))
  · exact .raised _

theorem execJsr_leaves {w : Addr} (hm : i.mnemonic ∈ [.jsr]) (h : execJsr w s = .next t) : Leaves i s t := by
  rcases withOperandBytes_cases (by decide) (by decide) h with ⟨-, h⟩ | ⟨-, rfl⟩
  · rw [← result_next_inj.1 h]
    exact .commit { (s.push (hiByte (s.pc + 2))).push (loByte (s.pc + 2)) with depth := s.depth + 1 } w
      (.called (hiByte (s.pc + 2)) (loByte (s.pc + 2)) hm)
  · exact .raised _

theorem execRts_leaves (hm : i.mnemonic ∈ [.rts]) (h : execRts s = .next t) : Leaves i s t := by
  unfold execRts at h
  split at h
  · rw [← result_next_inj.1 h]
    exact .raised .returned
  · rcases withAddress_cases h with ⟨-, -, h⟩ | ⟨-, rfl⟩
    · rw [← result_next_inj.1 h]
      exact .commit { s.pull.pull with depth := s.depth - 1 } _ (.resumed hm)
    · exact .raised _

theorem exec_leaves (h : exec i s = .next t) : Leaves i s t := by
  have hd := exec_does i s
  generalize exec i s = r at h hd
  cases hd with
  | load r src hm hf =>
    have hm : i.mnemonic ∈ loadersOf r := by rcases hm with ⟨hn, rfl⟩ | ⟨hn, rfl⟩ | ⟨hn, rfl⟩ <;> simp [hn, loadersOf]
    rcases loadReg_cases h with ⟨-, v, -, rfl⟩ | hv
    · exact .commit _ _ (.loaded r v hm)
    · exact hv.leaves
  | store v ref hm hf =>
    have hm : i.mnemonic ∈ [.sta, .stx, .sty] := by rcases hm with h | h | h <;> simp [h.1]
    rcases storeByte_cases h with ⟨-, he, rfl⟩ | hv
    · exact .commit _ _ (.stored v ref hm hf he)
    · exact hv.leaves
  | move r v hm hf =>
    have hm : i.mnemonic ∈ loadersOf r := by
      rcases hm with ⟨hn, rfl, -⟩ | ⟨hn, rfl, -⟩ | ⟨hn, rfl, -⟩ | ⟨hn, rfl, -⟩ | ⟨hn, rfl, -⟩ | ⟨hn, rfl, -⟩ | ⟨hn, rfl, -⟩ |
        ⟨hn, rfl, -⟩ | ⟨hn, rfl, -⟩ <;> simp [hn, loadersOf]
    exact finish_leaves (.loaded r v hm) h
  | accumulate op src hm hf =>
    rcases accumulate_cases h with ⟨-, m, -, rfl⟩ | hv
    · refine .commit _ _ (.accumulated _ _ ?_ ?_)
      · rcases hm with h | h | h | h | h <;> simp [h.1]
      · rcases hm with ⟨hn, rfl⟩ | ⟨hn, rfl⟩ | ⟨hn, rfl⟩ | ⟨hn, rfl⟩ | ⟨hn, rfl⟩ <;> simp [hn, bitAnd, bitOr, bitXor]
    · exact hv.leaves
  | compare r src hm hf =>
    have hm : i.mnemonic ∈ [.cmp, .cpx, .cpy] := by rcases hm with h | h | h <;> simp [h.1]
    rcases compareReg_cases h with ⟨-, m, -, rfl⟩ | hv
    · exact .commit _ _ (.compared _ _ hm)
    · exact hv.leaves
  | modify op p hm hf =>
    have hc : ∀ v : Byte, i.mnemonic ∈ carryOperations ∨ (op v s.c).2 = s.c := by
      rcases hm with ⟨hn, rfl⟩ | ⟨hn, rfl⟩ | ⟨hn, rfl⟩ | ⟨hn, rfl⟩ | ⟨hn, rfl⟩ | ⟨hn, rfl⟩ <;> simp [hn]
    have hm : i.mnemonic ∈ modifiers := by rcases hm with h | h | h | h | h | h <;> simp [h.1]
    cases p with
    | acc =>
      rcases modifyPlace_acc_cases h with ⟨-, rfl⟩ | hv
      · exact .commit _ _ (.modifiedAcc _ _ hm (mode_of_place_acc hf) (hc s.a))
      · exact hv.leaves
    | mem ref =>
      rcases modifyPlace_mem_cases h with ⟨-, he, rfl⟩ | hv
      · exact .commit _ _ (.modifiedMem _ _ ref hm (form_of_place_mem.1 hf) he (hc _))
      · exact hv.leaves
  | branch taken b hm hf =>
    have hc : Changes i s s := .nothing (by rcases hm with h | h | h | h | h | h <;> simp [h.1])
    rcases branch_cases h with ⟨-, -, -, -, rfl⟩ | ⟨-, -, rfl⟩ | hv
    · exact .commit s _ hc
    · exact .commit s _ hc
    · exact hv.leaves
  | txs hi => subst hi; exact finish_leaves (.stackPointer s.x (by decide)) h
  | jmp w hi => subst hi; exact execJmpAbs_leaves (List.mem_singleton_self _) h
  | jsr w hi => subst hi; exact execJsr_leaves (List.mem_singleton_self _) h
  | rts hi => subst hi; exact execRts_leaves (by decide) h
  | pha hi => subst hi; exact finish_leaves (.pushed s.a (by decide)) h
  | pla hi => subst hi; exact finish_leaves (.pulled s.pulled (by decide)) h
  | clc hi => subst hi; exact finish_leaves (.carry false (by decide)) h
  | sec hi => subst hi; exact finish_leaves (.carry true (by decide)) h
  | nop hi => subst hi; exact finish_leaves (.nothing (by decide)) h
  | unsupported hm => rw [← result_next_inj.1 h]; exact .raised _

end

/-! ### What the changes leave -/

theorem not_mnemonic {m : Mnemonic} {l l' : List Mnemonic} {p : Prop} (hs : l ⊆ l') (hm : m ∈ l) (hi : m ∉ l') : p :=
  absurd (hs hm) hi

section
variable {i : Instr} {s s' : State} (h : Changes i s s')
include h

theorem Changes.outcome_eq : s'.outcome = s.outcome := by
  cases h with
  | loaded r v hm => exact State.outcome_setReg s r v
  | _ => rfl

theorem Changes.steps_eq : s'.steps = s.steps := by
  cases h with
  | loaded r v hm => exact State.steps_setReg s r v
  | _ => rfl

/-- At most one more call is outstanding (spec/10_state.md R38). -/
theorem Changes.depth_le : s'.depth ≤ s.depth + 1 := by
  cases h with
  | loaded r v hm => exact Nat.le_succ_of_le (Nat.le_of_eq (State.depth_setReg s r v))
  | called hi lo hm => exact Nat.le_refl _
  | resumed hm => exact Nat.le_succ_of_le (Nat.sub_le _ _)
  | _ => exact Nat.le_succ _

theorem Changes.nz_eq (hi : i.mnemonic ∉ [.lda, .ldx, .ldy, .tax, .tay, .txa, .tya, .tsx, .pla, .and, .ora, .eor, .inc, .dec,
    .inx, .iny, .dex, .dey, .adc, .sbc, .cmp, .cpx, .cpy, .asl, .lsr, .rol, .ror]) : s'.n = s.n ∧ s'.z = s.z := by
  cases h with
  | loaded r v hm => exact not_mnemonic (by cases r <;> decide) hm hi
  | accumulated v c hm hc => exact not_mnemonic (by decide) hm hi
  | compared v c hm => exact not_mnemonic (by decide) hm hi
  | modifiedAcc v c hm hf hc => exact not_mnemonic (by decide) hm hi
  | modifiedMem v c r hm hf he hc => exact not_mnemonic (by decide) hm hi
  | pulled v hm => exact not_mnemonic (by decide) hm hi
  | _ => exact ⟨rfl, rfl⟩

theorem Changes.c_eq (hi : i.mnemonic ∉ carryOperations ++ [.clc, .sec]) : s'.c = s.c := by
  obtain ⟨hop, hcarry⟩ := not_or.1 (List.mem_append.not.1 hi)
  cases h with
  | loaded r v hm => exact State.c_setReg s r v
  | accumulated v c hm hc => exact hc.resolve_left hop
  | compared v c hm => exact not_mnemonic (by decide) hm hop
  | modifiedAcc v c hm hf hc => exact hc.resolve_left hop
  | modifiedMem v c r hm hf he hc => exact hc.resolve_left hop
  | carry c hm => exact absurd hm hcarry
  | _ => rfl

theorem Changes.a_eq (hi : i.mnemonic ∉ [.lda, .txa, .tya, .pla, .adc, .sbc, .and, .ora, .eor]) (hmode : i.mode ≠ .accumulator) :
    s'.a = s.a := by
  cases h with
  | loaded r v hm =>
    cases r with
    | a => exact not_mnemonic (by decide) hm hi
    | x | y => rfl
  | accumulated v c hm hc => exact not_mnemonic (by decide) hm hi
  | modifiedAcc v c hm hf hc => exact absurd hf hmode
  | pulled v hm => exact not_mnemonic (by decide) hm hi
  | _ => rfl

theorem Changes.x_eq (hi : i.mnemonic ∉ loadersOf .x) : s'.x = s.x := by
  cases h with
  | loaded r v hm =>
    cases r with
    | x => exact absurd hm hi
    | a | y => rfl
  | _ => rfl

theorem Changes.y_eq (hi : i.mnemonic ∉ loadersOf .y) : s'.y = s.y := by
  cases h with
  | loaded r v hm =>
    cases r with
    | y => exact absurd hm hi
    | a | x => rfl
  | _ => rfl

theorem Changes.sp_eq (hi : i.mnemonic ∉ [.pha, .pla, .jsr, .rts, .txs]) : s'.sp = s.sp := by
  cases h with
  | loaded r v hm => exact State.sp_setReg s r v
  | stackPointer v hm => exact not_mnemonic (by decide) hm hi
  | pushed v hm => exact not_mnemonic (by decide) hm hi
  | pulled v hm => exact not_mnemonic (by decide) hm hi
  | called _ _ hm => exact not_mnemonic (by decide) hm hi
  | resumed hm => exact not_mnemonic (by decide) hm hi
  | _ => rfl

/-- The stores of a commit are those of `storedAddresses`. -/
theorem Changes.storedAt : Memory.StoredAt s.mem (storedAddresses i s) s'.mem := by
  have hstack : ∀ sp : Byte, (stackAddr sp).toNat < Config.memorySize := fun sp => (stackAddr sp).isLt
  have hnone : ∀ {l : List Mnemonic}, i.mnemonic ∈ l → (∀ m ∈ l, m ∉ operandStorers ++ [.pha, .jsr]) →
      Memory.StoredAt s.mem (storedAddresses i s) s.mem := fun hm hl => by
    rw [storedAddresses_of_not_storer (hl _ hm)]
    exact .nil _
  have hoperand : ∀ {r : MemRef} (v : Byte), i.mnemonic ∈ operandStorers → i.form = .mem r → effectiveAddress r s ≤ 65535 →
      Memory.StoredAt s.mem (storedAddresses i s) (s.mem.write (effectiveAddress r s) v) := fun v hm hf he => by
    rw [storedAddresses_of_mem hm hf]
    exact .single v (Nat.lt_succ_of_le he)
  cases h with
  | loaded r v hm => rw [State.mem_setNZ, State.mem_setReg]; exact hnone hm (by cases r <;> decide)
  | accumulated v c hm hc => exact hnone hm (by decide)
  | compared v c hm => exact hnone hm (by decide)
  | modifiedAcc v c hm hf hc => rw [storedAddresses_of_accumulator hf]; exact .nil _
  | modifiedMem v c r hm hf he hc => exact hoperand v (List.subset_def.1 (by decide) hm) hf he
  | stored v r hm hf he => exact hoperand v (List.subset_def.1 (by decide) hm) hf he
  | carry c hm => exact hnone hm (by decide)
  | nothing hm => exact hnone hm (by decide)
  | stackPointer v hm => exact hnone hm (by decide)
  | pulled v hm => exact hnone hm (by decide)
  | resumed hm => exact hnone hm (by decide)
  | pushed v hm =>
    rw [storedAddresses_of_pha (List.mem_singleton.1 hm)]
    exact .single v (hstack _)
  | called hi lo hm =>
    rw [storedAddresses_of_jsr (List.mem_singleton.1 hm)]
    exact .cons _ _ _ _ hi (hstack _) (.single lo (hstack _))

end

/-! ### What an instruction leaves -/

section
variable {i : Instr} {s t : State} (h : exec i s = .next t)
include h

/-- Memory is as it was, or has the instruction's stores in it. -/
theorem exec_storedAt : t.mem = s.mem ∨ Memory.StoredAt s.mem (storedAddresses i s) t.mem := by
  cases exec_leaves h with
  | commit s' p hc => exact .inr hc.storedAt
  | raised o => exact .inl rfl

theorem exec_mem_wf (hm : s.mem.wf) : t.mem.wf := by
  rcases exec_storedAt h with he | hs
  · rwa [he]
  · exact hs.wf hm

/-- `depth` rises no faster than `steps`. -/
theorem exec_depth_le : t.depth + s.steps ≤ s.depth + t.steps := by
  cases exec_leaves h with
  | commit s' p hc =>
    have hd := hc.depth_le
    have hn := hc.steps_eq
    show s'.depth + s.steps ≤ s.depth + (s'.steps + 1)
    omega
  | raised o =>
    rw [State.steps_raised, State.depth_raised]
    split <;> omega

end

end Sys2Proof.Machine
end

section
/-! PROOFS. The frame statements, on flags, registers and memory (spec/10_state.md R21, R34; spec/20_memory.md R58), and memory as plain
storage: O27, O28, O29, O30. -/

namespace Sys2Proof.Proofs

open Sys2Proof.Machine

/-- Settles O27: a commit keeps the outcome and writes the flags of its `Changes`, a raise writes none. -/
theorem flagWriters : Obligations.FlagWriters := by
  intro i s t h
  cases exec_leaves h with
  | commit s' p hc =>
    have ho : ¬ s'.outcome ≠ s.outcome := not_not.2 hc.outcome_eq
    exact ⟨fun hi => hc.nz_eq (hi.resolve_right ho), fun hi => hc.c_eq (hi.resolve_right ho)⟩
  | raised o => exact ⟨fun _ => ⟨rfl, rfl⟩, fun _ => rfl⟩

/-- Settles O28, as O27 field by field; `depth` and the budget are read by no other instruction and so written by none. -/
theorem registerWriters : Obligations.RegisterWriters := by
  intro i s t h
  have hdepth : i.mnemonic ∉ [.jsr, .rts] → t.depth = s.depth := fun hi => exec_depth hi h
  have hbudget := exec_stepBudget h
  cases exec_leaves h with
  | commit s' p hc => exact ⟨fun ⟨hm, hmode⟩ => hc.a_eq hm hmode, hc.x_eq, hc.y_eq, hc.sp_eq, hdepth, hbudget⟩
  | raised o => exact ⟨fun _ => rfl, fun _ => rfl, fun _ => rfl, fun _ => rfl, hdepth, hbudget⟩

/-- Settles O29: whatever an instruction stores it stores at `storedAddresses`, which a form that stores nothing has none of. -/
theorem memoryFrame : Obligations.MemoryFrame := by
  intro i s t h
  refine ⟨fun k hk => ?_, fun hi k hk => ?_, fun hi => ?_⟩
  · rcases exec_storedAt h with he | hs
    · rw [he]
    · exact hs.read_other hk
  · have hslot : ∃ sp : Byte, k = 0x100 + sp.toNat := by
      rcases List.mem_pair.1 hi with hpha | hjsr
      · rw [storedAddresses_of_pha hpha, List.mem_singleton, stackAddr_toNat] at hk
        exact ⟨_, hk⟩
      · rw [storedAddresses_of_jsr hjsr, List.mem_pair, stackAddr_toNat, stackAddr_toNat] at hk
        exact hk.elim (⟨_, ·⟩) (⟨_, ·⟩)
    obtain ⟨sp, rfl⟩ := hslot
    have := sp.isLt
    omega
  · have hnone : storedAddresses i s = [] := hi.elim storedAddresses_of_not_storer storedAddresses_of_accumulator
    rcases exec_storedAt h with he | hs
    · exact he
    · exact (hnone ▸ hs).eq_of_nil

/-- Settles O30: two canonical memories are the same where they read alike, and a write changes one reading. -/
theorem memoryIsPlainStorage : Obligations.MemoryIsPlainStorage := by
  intro m hm k v hk
  have hwf := Memory.write_wf v hm hk
  refine ⟨hwf, Memory.read_write_same v hm, fun j hj => Memory.read_write_other m v hj, ?_, Memory.write_read_self hm hk,
    fun m' hm' h => ?_⟩
  · have hself := Memory.write_read_self hwf hk
    rwa [Memory.read_write_same v hm] at hself
  · refine Memory.ext_of_read hm' hm fun j => ?_
    by_cases hj : j < 65536
    · exact h j hj
    · rw [Memory.read_outside hm' hj, Memory.read_outside hm hj]

end Sys2Proof.Proofs
end

section
/-! PROOFS. The invariant along a step and at launch, and that every run ends (spec/60_exceptions.md R201 to R207, R212, R222). -/

namespace Sys2Proof.Machine

/-! ### A step -/

section
variable {s t : State}

/-- A run that has not ended has a next step: nothing in it faults or is refused. -/
theorem step_next_of_running (hr : s.outcome = .running) : ∃ t, step s = .next t := by
  rw [step_running hr]
  cases fetch s with
  | instr i =>
    obtain ⟨t, ht, -⟩ := exec_answers i s
    exact ⟨t, ht⟩
  | raised o => exact ⟨s.raised o, rfl⟩

/-- A step writes to memory what its instruction writes, or nothing. -/
theorem step_mem_wf (hm : s.mem.wf) (h : step s = .next t) : t.mem.wf := by
  rcases step_cases (running_of_step h) h with ⟨_, rfl⟩ | ⟨_, _, rfl⟩ | ⟨_, _, d, _, _, rfl⟩ | ⟨_, _, i, rest, _, _, _, _, he⟩
  · exact hm
  · exact hm
  · exact hm
  · exact exec_mem_wf he hm

theorem step_depth_le (h : step s = .next t) : t.depth + s.steps ≤ s.depth + t.steps := by
  rcases step_cases (running_of_step h) h with ⟨_, rfl⟩ | ⟨_, _, rfl⟩ | ⟨_, _, d, _, _, rfl⟩ | ⟨_, _, i, rest, _, _, _, _, he⟩
  · exact Nat.le_refl _
  · exact Nat.le_refl _
  · exact Nat.le_refl _
  · exact exec_depth_le he

/-- A step records an outcome in the state it is about. -/
theorem StepEffect.outcomeFits (h : StepEffect s t) (hs : s.steps ≤ s.stepBudget) : OutcomeFits t := by
  cases h with
  | commit _ _ ho _ _ => rw [OutcomeFits, ho]; trivial
  | returned _ hop hd => exact ⟨hd, Nat.succ_pos _, hop⟩
  | unsupported hx => exact ⟨rfl, rfl, hx⟩
  | budget hb => exact Nat.le_antisymm hs hb
  | violation a ho h₀ h₁ => exact ⟨rfl, ho, h₀, h₁⟩

end

/-! ### A launch -/

theorem LaunchInputs.wf.mem0_wf {li : LaunchInputs} (h : li.wf) : li.mem0.wf := by
  obtain ⟨_, hsnap, _, hfit, hfill⟩ := h
  exact Memory.writeBytes_wf _ (Memory.applySnapshot_wf hfill fun p hp => (hsnap p hp).1) (by simpa using hfit)

/-! ### A run -/

theorem after_of_ended {s : State} (hr : s.outcome ≠ .running) (k : Nat) : State.after k s = s := by
  cases k with
  | zero => rfl
  | succ k => rw [State.after, step_ended hr]

theorem after_succ {s t : State} (h : step s = .next t) (k : Nat) : State.after (k + 1) s = State.after k t := by
  rw [State.after, h]

/-- More steps than the budget still allows end the run: each step that does not end it uses one up. -/
theorem after_ended {k : Nat} {s : State} (hk : s.stepBudget - s.steps < k) : (State.after k s).outcome ≠ .running := by
  induction k generalizing s with
  | zero => omega
  | succ k ih =>
    by_cases hr : s.outcome = .running
    · obtain ⟨t, ht⟩ := step_next_of_running hr
      rw [after_succ ht]
      by_cases hrt : t.outcome = .running
      · cases step_effect ht with
        | commit _ hb _ hn hbudget => exact ih (by omega)
        | returned _ _ _ | unsupported _ | budget _ | violation _ _ _ _ => cases hrt
      · rwa [after_of_ended hrt]
    · rwa [after_of_ended hr]

theorem result_of_ended {s : State} (h : s.outcome ≠ .running) : ∃ r, s.result = some r := ⟨_, if_neg h⟩

end Sys2Proof.Machine
end

section
/-! PROOFS. The statements about the invariant, reset and whole runs: O40, O39, O37, O38, O41, O15. -/

namespace Sys2Proof.Proofs

open Sys2Proof.Machine

/-- Settles O40, a clause at a time: memory and `depth` by what an instruction writes, `steps` and the recorded outcome by what a step
can do. -/
theorem stepKeepsInv : Obligations.StepKeepsInv := by
  rintro s t ⟨hmem, hsteps, hdepth, -⟩ h
  have he := step_effect h
  have hd := step_depth_le h
  exact ⟨step_mem_wf hmem h, (he.keepsBudget hsteps).1, by omega, he.outcomeFits hsteps⟩

/-- Settles O39: `MEM0` is a canonical memory, written to only inside the address space, and the counters start at 0. -/
theorem invAtLaunch : Obligations.InvAtLaunch := by
  intro li s h
  obtain ⟨hwf, rfl⟩ := launch_some h
  exact ⟨hwf.mem0_wf, Nat.zero_le _, Nat.le_refl _, trivial⟩

/-- Settles O37: the baseline inputs are admitted, and their launch state is the reset state. -/
theorem resetIsBaselineLaunch : Obligations.ResetIsBaselineLaunch :=
  ⟨rfl, rfl, rfl, rfl, if_pos ⟨by decide, nofun, nofun, by decide, Memory.wf_nil⟩⟩

/-- Settles O38: reset is a launch. -/
theorem invAtReset : Obligations.InvAtReset := by
  obtain ⟨-, -, -, -, hlaunch⟩ := resetIsBaselineLaunch
  exact invAtLaunch _ _ hlaunch

/-- Settles O41, by the steps the budget leaves. -/
theorem everyRunEnds : Obligations.EveryRunEnds := by
  have hend : ∀ s : State, (State.after s.stepsToEnd s).outcome ≠ .running := fun s => after_ended (Nat.lt_succ_self _)
  refine ⟨hend, fun li s h => ?_⟩
  obtain ⟨r, hr⟩ := result_of_ended (hend s)
  refine ⟨?_, r, by rw [runFrom, h]; exact hr, hr⟩
  obtain ⟨-, rfl⟩ := launch_some h
  exact after_steps_le _ (Nat.zero_le _)

/-- Settles O15: a run that has not ended has a next state. -/
theorem endedRunIsStuck : Obligations.EndedRunIsStuck := by
  refine fun s => ⟨step_ended, fun hf hr => ?_⟩
  obtain ⟨t, ht⟩ := step_next_of_running hr
  cases hf.symm.trans ht

end Sys2Proof.Proofs
end

section
/-! PROOFS. That a step is the execution of what its bytes decode to, executed opcode or not, and the bytes that a fetch after a store or
a return after a call finds in memory. -/

namespace Sys2Proof.Machine

/-! ### A step of the decoded instruction -/

theorem allRows_notExecuted : ∀ r ∈ allRows, r.executed = false →
    r.mnemonic ∈ [.bit, .brk, .rti, .php, .plp, .bvc, .bvs, .clv, .cld, .sed, .cli, .sei] ∨ r.mode = .indirect := by
  have h : allRows.all (fun r => decide (r.executed = false →
      r.mnemonic ∈ [.bit, .brk, .rti, .php, .plp, .bvc, .bvs, .clv, .cld, .sed, .cli, .sei] ∨ r.mode = .indirect)) = true := by
    decide +kernel
  simpa only [List.all_eq_true, decide_eq_true_eq] using h

/-- EXEC_SET leaves out no other instruction (spec/45_decoded_not_executed.md R180): the converse of `inExecSet_tierD`. -/
theorem decodedOnlyInstr_of_notExecuted {i : Instr} (hx : inExecSet i.opcode = false) : DecodedOnlyInstr i := by
  obtain ⟨r, hr, hd⟩ := opcodeTable_some (opcodeTable_opcode i)
  obtain ⟨hm, -, hmode⟩ := Descriptor.mk.inj hd
  rw [inExecSet_of_lookup hr] at hx
  have h := allRows_notExecuted r (lookup_some hr).1 hx
  rwa [hm, hmode] at h

/-- The outcome of a byte outside EXEC_SET is the same from the fetch and from the decoded instruction. -/
theorem step_eq_exec {s : State} {i : Instr} {rest : List Byte} (hr : Ready s) (hd : decode s.fetchWindow = .instr i rest) :
    step s = exec i s := by
  have ⟨hrun, hbudget⟩ := hr
  obtain ⟨hop, -, -⟩ := decode_fetchWindow_row hd
  cases hx : inExecSet (s.byteAt s.pc) with
  | true => exact step_of_fetch_instr hrun (fetch_instr hbudget hx hd)
  | false =>
    rw [step_of_notExecuted hr hx, ← hop]
    exact ((decodedOnlyInstr_of_notExecuted (hop ▸ hx)).exec_fatal s).symm

theorem fetchWindow_get (s : State) {k : Nat} (hk : k < 3) (hp : s.pc.toNat + k ≤ 65535) :
    s.fetchWindow[k]? = some (s.mem.read (s.pc.toNat + k)) := window_get s.mem hk (Nat.lt_succ_of_le hp)

/-- Where memory holds an instruction's bytes at `PC`, the window decodes to it. -/
theorem decode_fetchWindow_of_bytes {s : State} {i : Instr} (hfit : s.pc.toNat + (encode i).length ≤ 65536)
    (hb : ∀ k b, (encode i)[k]? = some b → s.mem.read (s.pc.toNat + k) = b) :
    ∃ rest, decode s.fetchWindow = .instr i rest := by
  have hlen : (encode i).length ≤ 3 := by rw [encode_length]; exact i.size_le
  have htake : s.fetchWindow.take (encode i).length = encode i := by
    refine List.ext_getElem? fun k => ?_
    by_cases hk : k < (encode i).length
    · rw [List.getElem?_take_of_lt hk, fetchWindow_get s (by omega) (by omega), List.getElem?_eq_getElem hk,
        hb k _ (List.getElem?_eq_getElem hk)]
    · rw [List.getElem?_take_eq_none (by omega), List.getElem?_eq_none (by omega)]
  have hw := List.take_append_drop (encode i).length s.fetchWindow
  rw [htake] at hw
  exact ⟨_, (congrArg decode hw.symm).trans (decode_encode_append i _)⟩

/-! ### Call and return -/

/-- What a JSR pushed is what the RTS after it pulls: the address of the call's last byte, plus one. -/
theorem returnTarget_of_pushed {m : Memory} {sp hi lo : Byte} (hm : m.wf) (u : State)
    (hmem : u.mem = (m.write (0x0100 + sp.toNat) hi).write (0x0100 + (sp - 1).toNat) lo) (hsp : u.sp = sp - 2) :
    Claims.returnTarget u = hi.toNat * 256 + lo.toNat + 1 := by
  have h₁ : sp - 2 + 1 = sp - 1 := by bv_omega
  have h₂ : sp - 2 + 2 = sp := BitVec.sub_add_cancel sp 2
  have hne : 0x0100 + sp.toNat ≠ 0x0100 + (sp - 1).toNat := by bv_omega
  have hwf : (m.write (0x0100 + sp.toNat) hi).wf := Memory.write_wf hi hm (show 0x0100 + sp.toNat < 65536 by omega)
  rw [Claims.returnTarget, hmem, hsp, h₁, h₂, Memory.read_write_same lo hwf, Memory.read_write_other _ lo hne,
    Memory.read_write_same hi hm]

/-- The state a JSR leaves, from which a return resumes behind the call. -/
theorem execJsr_returns (w : Addr) {s : State} (hm : s.mem.wf) (hp : s.pc.toNat + 2 ≤ 65535) :
    ∃ t, execJsr w s = .next t ∧ t.pc = w ∧ t.sp = s.sp - 2 ∧ t.depth = s.depth + 1 ∧ t.steps = s.steps + 1 ∧
      Claims.returnTarget t = s.pc.toNat + 3 := by
  have hra : (hiByte (s.pc + 2)).toNat * 256 + (loByte (s.pc + 2)).toNat = s.pc.toNat + 2 := by
    rw [← word16_toNat, word16_hi_lo]
    exact BitVec.toNat_add_of_lt (show s.pc.toNat + 2 < 65536 by omega)
  have hlo := (loByte (s.pc + 2)).isLt
  refine ⟨_, execJsr_next hp (show (hiByte (s.pc + 2)).toNat = _ by omega) (show (loByte (s.pc + 2)).toNat = _ by omega),
    rfl, rfl, rfl, rfl, ?_⟩
  rw [returnTarget_of_pushed hm _ rfl rfl, hra]

end Sys2Proof.Machine
end

section
/-! PROOFS. The statements about a step and the instructions in memory: O11, O42, O43. -/

namespace Sys2Proof.Proofs

open Sys2Proof.Machine

/-- Settles O11: an instruction outside EXEC_SET has the outcome that the fetch raises for its byte. -/
theorem stepRunsDecoded : Obligations.StepRunsDecoded := by
  refine ⟨fun s i rest hr hd => step_eq_exec hr hd, fun s i hr hfit hb => ?_⟩
  obtain ⟨rest, hd⟩ := decode_fetchWindow_of_bytes hfit hb
  exact step_eq_exec hr hd

/-- Settles O42: the store that commits is one write to memory, and the next fetch reads that memory. -/
theorem storeIntoCode : Obligations.StoreIntoCode := by
  intro s t i rest r v hwf hr hd hf hv h ht k hk hp
  rw [step_eq_exec hr hd, (Does.store v r hv hf).exec_eq] at h
  rcases storeByte_cases h with ⟨-, -, rfl⟩ | ⟨a, -, -, -, rfl⟩
  · rw [fetchWindow_get _ hk hp, Memory.read_write v hwf]
    exact congrArg some (if_congr eq_comm rfl rfl)
  · cases ht

/-- Settles O43: the two bytes JSR pushes are those RTS pulls, and they name the call's last byte. -/
theorem callThenReturn : Obligations.CallThenReturn := by
  intro w s hwf hp
  obtain ⟨t, hjsr, hpc, hsp, hdepth, hsteps, htarget⟩ := execJsr_returns w hwf hp
  have hrts : exec .rts t = _ := execRts_outstanding (by omega)
  rw [htarget] at hrts
  refine ⟨t, hjsr, hpc, hsp, fun hn => ?_, fun hn => ?_⟩
  · have hback : s.sp - 2 + 2 = s.sp := BitVec.sub_add_cancel s.sp 2
    have hnext : BitVec.ofNat 16 (s.pc.toNat + 3) = s.pc + 3 := by bv_omega
    rw [hrts, withAddress_nat hn, commit_eq, hsp, hback, hnext, hdepth, hsteps, Nat.add_sub_cancel]
  · rw [hrts, hn]
    exact withAddress_out (.inr (by decide))

end Sys2Proof.Proofs
end
